-- ==== Sys2Proof/Word.lean ====
section
/-! DEFINITION. The word types of KLZ: the byte of IN, OUT and the token stream, and the 32-bit CSR word (rules R7, R25, R60). -/

namespace Sys2Proof

/-- One byte of IN, OUT or a stream (R60). -/
abbrev Byte := BitVec 8

/-- One 32-bit control or status register, and the width of the engine's u32 registers (R25, R36). -/
abbrev Word := BitVec 32

/-- The 32-bit value of a natural, reduced mod 2^32 (R7, R221). -/
abbrev u32 (n : Nat) : Word := BitVec.ofNat 32 n

/-- The 16-bit value of a natural: a field of a token or candidate record (R111, R112). -/
abbrev u16 (n : Nat) : BitVec 16 := BitVec.ofNat 16 n

end Sys2Proof
end

