-- ==== Sys2Proof/Config.lean ====
section
/-! DEFINITION. What an instance of KLZ fixes: its OPEN parameters (R6) as plain data, the shape of a scheme
registry entry (R22), and the free values of the model: unspecified bytes and released registers. -/

namespace Sys2Proof

/-- Every byte the spec leaves unspecified (93_implementation_defined.md U5 to U8, "a model draws every byte").
A FREE VALUE: no body, so nothing can be proved of its value. The first argument is the number of the draw, the
second the index of the byte. Log entry 4. -/
opaque Config.freeByte : Nat → Nat → Byte

/-- What a working register of the engine holds once its contents did not survive a completion step (R219). A FREE
VALUE: no body. The first argument is the number of the draw, the second the number of the register. Log entry 7. -/
opaque Config.freeRegister : Nat → Nat → Nat

/-- Match length and displacement bounds of a scheme (R6, KU2's Limitations). -/
structure Limitations where
  minLength       : Nat
  maxLength       : Nat
  minDisplacement : Nat
  maxDisplacement : Nat
  unitSize        : Nat
  deriving DecidableEq, Repr

/-- Which of the two parsers a scheme uses (R6, R150). -/
inductive ParserKind where
  | optimal
  | greedy
  deriving DecidableEq, Repr

/-- The wire format of a registry entry (last column of R23). -/
inductive Codec where
  /-- raw copy, method container only -/
  | raw
  /-- the LZSS/LZ10 bitstream -/
  | lz10
  /-- the hardware has it, no source gives it -/
  | notInSource
  deriving DecidableEq, Repr

/-- One entry of the scheme registry (R22). The price functions are total functions to naturals (R24, R140). -/
structure Entry where
  name        : String
  registered  : Bool
  implemented : Bool
  hasFinder   : Bool
  lim         : Limitations
  pre         : List Byte
  backwards   : Bool
  parser      : ParserKind
  litCost     : Nat
  matchCost   : Nat → Nat → Nat
  codec       : Codec

/-- A scheme registry: a constant table indexed by a 4-bit scheme id (R22). -/
abbrev Registry := BitVec 4 → Entry

/-- The OPEN parameters of one instance (R6). They are plain data: State carries them, no step changes them. -/
structure Params where
  /-- capacity of IN in bytes, 16 .. 2^32 - 1 (D7) -/
  inCap        : Nat
  /-- capacity of OUT in bytes, 16 .. 2^32 - 1 (D7) -/
  outCap       : Nat
  /-- the four tag bytes of the LZ10 header read as LE32, as the TAG register shows them (D19, R34) -/
  containerTag : Word
  /-- METHOD_MAP : which scheme id each of the eight method tags selects (D20, R99) -/
  methodMap    : List (Option (BitVec 4))
  /-- where the host sees the CSR space (D6, R64) -/
  csrBase      : Nat
  /-- where the host sees IN (D6, R64) -/
  inBase       : Nat
  /-- where the host sees OUT (D6, R64) -/
  outBase      : Nat
  deriving DecidableEq, Repr

/-- The bounds R6 and D7 put on the parameters, and the shape of METHOD_MAP (eight tags, each mapped to one of the
five registered schemes or to none); the three spaces do not overlap where the host sees them (log entry 10). -/
def Params.wf (p : Params) : Bool :=
  decide (16 ≤ p.inCap) && decide (p.inCap < 2 ^ 32) && decide (16 ≤ p.outCap) && decide (p.outCap < 2 ^ 32)
    && decide (p.methodMap.length = 8)
    && p.methodMap.all (fun m => match m with | none => true | some id => decide (id.toNat < 5))
    && (decide (p.csrBase + 256 ≤ p.inBase) || decide (p.inBase + p.inCap ≤ p.csrBase))
    && (decide (p.csrBase + 256 ≤ p.outBase) || decide (p.outBase + p.outCap ≤ p.csrBase))
    && (decide (p.inBase + p.inCap ≤ p.outBase) || decide (p.outBase + p.outCap ≤ p.inBase))

/-- The parameter values State.reset is written with: the conventions of 95_test_vectors.md (capacities 65536, its
example METHOD_MAP) and a placeholder tag and bases. DESIGN CHOICE, log entry 3: the hardware's values are OPEN, and
every statement about a step is made for all parameters. -/
def Config.resetParams : Params where
  inCap        := 65536
  outCap       := 65536
  containerTag := 0x305A4C4B#32
  methodMap    := [some 0#4, some 1#4, none, none, none, none, none, none]
  csrBase      := 0
  inBase       := 0x10000
  outBase      := 0x20000

end Sys2Proof
end

