-- ==== Sys2Proof/Syntax.lean ====
section
/-! DEFINITION. The syntax of both instruction levels (R3): one constructor of Instr per row of opcode_table.json,
and the tokens (R12) and candidates (R112) that commands hand to each other. -/

namespace Sys2Proof

/-- A token (R12): a literal byte, or a match with length and displacement. -/
inductive Token where
  | lit (b : Byte)
  | mat (l d : Nat)
  deriving DecidableEq, Repr

/-- A candidate match (R112, R121): length and displacement. -/
structure Cand where
  len  : Nat
  disp : Nat
  deriving DecidableEq, Repr

/-- The instructions of KLZ. The five stream forms are executed by the decoder with RDPTR as program counter (R3 (a));
the six commands are started through CTRL (R3 (b)); the three record forms are what FIND, PARSE and ENCODE exchange
through the buffers (R111, R112). -/
inductive Instr where
  /-- CTRLBYTE: the control byte of a flag group (R90) -/
  | ctrlbyte (flags : BitVec 8)
  /-- LIT: a literal token (R91, R184) -/
  | lit (value : BitVec 8)
  /-- MATCH: a match token, length 3..18 and displacement 1..4096 (R92, R93, R185) -/
  | matchTok (length displacement : Nat)
  /-- HDR16: the 16-byte LZ10 stream header; tag and size as LE32, bytes 4..11 never read (R97, R180) -/
  | hdr16 (tag : BitVec 32) (rsvd : BitVec 64) (size : BitVec 32)
  /-- MWORD: the method word of the container (R98, R203) -/
  | mword (size : BitVec 29) (method : BitVec 3)
  /-- FIND (R130) -/
  | find (framing preserve : Bool)
  /-- PRICE (R143) -/
  | price (framing preserve : Bool)
  /-- PARSE (R160) -/
  | parse (framing preserve : Bool)
  /-- ENCODE (R176) -/
  | encode (framing preserve : Bool)
  /-- COMPRESS (R224) -/
  | compress (framing preserve : Bool)
  /-- DECOMPRESS (R226) -/
  | decompress (framing preserve : Bool)
  /-- TOKREC_LIT: the 8-byte token record of a literal (R111) -/
  | tokrecLit (value : BitVec 8)
  /-- TOKREC_MATCH: the 8-byte token record of a match (R111) -/
  | tokrecMatch (length displacement : BitVec 16)
  /-- CANDREC: the 4-byte candidate record (R112) -/
  | candrec (length displacement : BitVec 16)
  deriving DecidableEq, Repr

end Sys2Proof
end

