-- ==== Sys2Proof/WellFormed.lean ====
section
/-! DEFINITION. Which terms of Instr stand for an encoding: only MATCH carries numbers wider than its fields. -/

namespace Sys2Proof

/-- A match token's operands are in the ranges its 4-bit and 12-bit fields reach (R92, R113). -/
def matchOperandsOk (length displacement : Nat) : Bool :=
  decide (3 ≤ length) && decide (length ≤ 18) && decide (1 ≤ displacement) && decide (displacement ≤ 4096)

/-- An instruction that some encoding stands for. Every other constructor's operands have exactly the width of their
field. -/
def Instr.wellFormed : Instr → Bool
  | .ctrlbyte _ => true
  | .lit _ => true
  | .matchTok l d => matchOperandsOk l d
  | .hdr16 _ _ _ => true
  | .mword _ _ => true
  | .find _ _ => true
  | .price _ _ => true
  | .parse _ _ => true
  | .encode _ _ => true
  | .compress _ _ => true
  | .decompress _ _ => true
  | .tokrecLit _ => true
  | .tokrecMatch _ _ => true
  | .candrec _ _ => true

end Sys2Proof
end

