-- ==== Sys2Proof/Decode.lean ====
section
/-! DEFINITION. Byte-order helpers (R10, R65), the decoder of every form of 30_encoding.md, total on any bytes and
rejecting by name, and the encoder written from the same tables. -/

namespace Sys2Proof

/-- LE16 of two bytes, the first the low one (R10). -/
def le16 (b0 b1 : Byte) : BitVec 16 := b1 ++ b0

/-- LE32 of four bytes, the first the low one (R10). -/
def le32 (b0 b1 b2 b3 : Byte) : BitVec 32 := b3 ++ b2 ++ b1 ++ b0

/-- LE64 of eight bytes: the reserved field of the LZ10 header held as one value (R97). -/
def le64 (b0 b1 b2 b3 b4 b5 b6 b7 : Byte) : BitVec 64 := b7 ++ b6 ++ b5 ++ b4 ++ b3 ++ b2 ++ b1 ++ b0

/-- putLE16 (R10). -/
def putLE16 (v : BitVec 16) : List Byte := [v.extractLsb' 0 8, v.extractLsb' 8 8]

/-- putLE32 (R10). -/
def putLE32 (v : BitVec 32) : List Byte :=
  [v.extractLsb' 0 8, v.extractLsb' 8 8, v.extractLsb' 16 8, v.extractLsb' 24 8]

/-- The eight bytes of a 64-bit value, low byte first. -/
def putLE64 (v : BitVec 64) : List Byte :=
  [v.extractLsb' 0 8, v.extractLsb' 8 8, v.extractLsb' 16 8, v.extractLsb' 24 8,
   v.extractLsb' 32 8, v.extractLsb' 40 8, v.extractLsb' 48 8, v.extractLsb' 56 8]

/-- Which form the reader of the bytes expects. No form is self-describing: the engine's stage and the tag of the
control byte select it (R95, R39). -/
inductive Form where
  /-- a word written to CTRL (R110) -/
  | command
  /-- the start of a stream with FRAMING = 0 (R97) -/
  | header16
  /-- the start of a stream with FRAMING = 1 (R98) -/
  | methodWord
  /-- a stream position where a token is due and no tag is left (R183) -/
  | control
  /-- a token whose tag is 0 (R91) -/
  | literal
  /-- a token whose tag is 1 (R92) -/
  | matchPair
  /-- a token record of ENCODE's input (R111) -/
  | record
  /-- a candidate record (R112) -/
  | candidate
  deriving DecidableEq, Repr

/-- Why bytes are rejected. -/
inductive DecodeError where
  /-- fewer bytes than the form needs -/
  | short
  /-- a CTRL word with START = 0 starts nothing (R110) -/
  | notStart
  /-- a CTRL word with OP = 0x0 or 0x7 to 0xF (R110) -/
  | reservedOp (op : BitVec 4)
  /-- an ill-formed token record (R111) -/
  | malformedRecord
  deriving DecidableEq, Repr

/-- OP values of the six commands (R110). -/
def opFind : BitVec 4 := 1#4
def opPrice : BitVec 4 := 2#4
def opParse : BitVec 4 := 3#4
def opEncode : BitVec 4 := 4#4
def opCompress : BitVec 4 := 5#4
def opDecompress : BitVec 4 := 6#4

/-- The CTRL word `(RSVD_PRESERVE << 6) | (FRAMING << 5) | (OP << 1) | START` (R26, R110). -/
def ctrlWord (start : Bool) (op : BitVec 4) (framing preserve : Bool) : Word :=
  0#25 ++ BitVec.ofBool preserve ++ BitVec.ofBool framing ++ op ++ BitVec.ofBool start

/-- The fields of a CTRL word (R26); bits 31:7 are ignored. -/
def ctrlStart (w : Word) : Bool := w.getLsbD 0
def ctrlOp (w : Word) : BitVec 4 := w.extractLsb' 1 4
def ctrlFraming (w : Word) : Bool := w.getLsbD 5
def ctrlPreserve (w : Word) : Bool := w.getLsbD 6

/-- The command a CTRL word starts (R110). -/
def decodeCommand (w : Word) : Except DecodeError Instr :=
  if ctrlStart w = false then .error .notStart
  else if ctrlOp w = opFind then .ok (.find (ctrlFraming w) (ctrlPreserve w))
  else if ctrlOp w = opPrice then .ok (.price (ctrlFraming w) (ctrlPreserve w))
  else if ctrlOp w = opParse then .ok (.parse (ctrlFraming w) (ctrlPreserve w))
  else if ctrlOp w = opEncode then .ok (.encode (ctrlFraming w) (ctrlPreserve w))
  else if ctrlOp w = opCompress then .ok (.compress (ctrlFraming w) (ctrlPreserve w))
  else if ctrlOp w = opDecompress then .ok (.decompress (ctrlFraming w) (ctrlPreserve w))
  else .error (.reservedOp (ctrlOp w))

/-- Operand assembly of a match token (R92, R93): length from B0[7:4], displacement from B0[3:0] ++ B1. -/
def matchLength (b0 : Byte) : Nat := (b0.extractLsb' 4 4).toNat + 3
def matchDisplacement (b0 b1 : Byte) : Nat := ((b0.extractLsb' 0 4 ++ b1 : BitVec 12)).toNat + 1

/-- A token record by its fields (R111): well-formed iff KIND is 0 or 1, RSV = 0, and either KIND = 0, LENGTH = 1,
DISP = 0, or KIND = 1, VALUE = 0. -/
def decodeRecord (kind value : Byte) (rsv length disp : BitVec 16) : Except DecodeError Instr :=
  if rsv ≠ 0#16 then .error .malformedRecord
  else if kind = 0#8 then
    if length = 1#16 ∧ disp = 0#16 then .ok (.tokrecLit value) else .error .malformedRecord
  else if kind = 1#8 then
    if value = 0#8 then .ok (.tokrecMatch length disp) else .error .malformedRecord
  else .error .malformedRecord

/-- Pairs an instruction with the bytes after it. -/
def withRest (rest : List Byte) : Except DecodeError Instr → Except DecodeError (Instr × List Byte)
  | .ok i => .ok (i, rest)
  | .error e => .error e

/-- The decoder: reads one instruction of the expected form and answers it with the bytes after it. -/
def decode (f : Form) (bs : List Byte) : Except DecodeError (Instr × List Byte) :=
  match f with
  | .command =>
    match bs with
    | b0 :: b1 :: b2 :: b3 :: rest => withRest rest (decodeCommand (le32 b0 b1 b2 b3))
    | _ => .error .short
  | .header16 =>
    match bs with
    | t0 :: t1 :: t2 :: t3 :: r0 :: r1 :: r2 :: r3 :: r4 :: r5 :: r6 :: r7 :: s0 :: s1 :: s2 :: s3 :: rest =>
      .ok (.hdr16 (le32 t0 t1 t2 t3) (le64 r0 r1 r2 r3 r4 r5 r6 r7) (le32 s0 s1 s2 s3), rest)
    | _ => .error .short
  | .methodWord =>
    match bs with
    | b0 :: b1 :: b2 :: b3 :: rest =>
      .ok (.mword ((le32 b0 b1 b2 b3).extractLsb' 3 29) ((le32 b0 b1 b2 b3).extractLsb' 0 3), rest)
    | _ => .error .short
  | .control =>
    match bs with
    | b :: rest => .ok (.ctrlbyte b, rest)
    | [] => .error .short
  | .literal =>
    match bs with
    | b :: rest => .ok (.lit b, rest)
    | [] => .error .short
  | .matchPair =>
    match bs with
    | b0 :: b1 :: rest => .ok (.matchTok (matchLength b0) (matchDisplacement b0 b1), rest)
    | _ => .error .short
  | .record =>
    match bs with
    | k :: v :: r0 :: r1 :: l0 :: l1 :: d0 :: d1 :: rest =>
      withRest rest (decodeRecord k v (le16 r0 r1) (le16 l0 l1) (le16 d0 d1))
    | _ => .error .short
  | .candidate =>
    match bs with
    | l0 :: l1 :: d0 :: d1 :: rest => .ok (.candrec (le16 l0 l1) (le16 d0 d1), rest)
    | _ => .error .short

/-- The two bytes of a match token (R93, R174). -/
def matchBytes (l d : Nat) : List Byte :=
  [BitVec.ofNat 4 (l - 3) ++ (BitVec.ofNat 12 (d - 1)).extractLsb' 8 4, (BitVec.ofNat 12 (d - 1)).extractLsb' 0 8]

/-- The eight bytes of a token record (R111). -/
def litRecordBytes (v : Byte) : List Byte := [0#8, v] ++ putLE16 0#16 ++ putLE16 1#16 ++ putLE16 0#16
def matchRecordBytes (l d : BitVec 16) : List Byte := [1#8, 0#8] ++ putLE16 0#16 ++ putLE16 l ++ putLE16 d

/-- The four bytes of a candidate record (R112). -/
def candRecordBytes (l d : BitVec 16) : List Byte := putLE16 l ++ putLE16 d

/-- The method word `(size << 3) | method` (R98). -/
def methodWordOf (size : BitVec 29) (method : BitVec 3) : Word := size ++ method

/-- The encoder: the bytes of a well-formed instruction, lowest address first. -/
def encode : Instr → List Byte
  | .ctrlbyte f => [f]
  | .lit v => [v]
  | .matchTok l d => matchBytes l d
  | .hdr16 t r z => putLE32 t ++ putLE64 r ++ putLE32 z
  | .mword z m => putLE32 (methodWordOf z m)
  | .find f p => putLE32 (ctrlWord true opFind f p)
  | .price f p => putLE32 (ctrlWord true opPrice f p)
  | .parse f p => putLE32 (ctrlWord true opParse f p)
  | .encode f p => putLE32 (ctrlWord true opEncode f p)
  | .compress f p => putLE32 (ctrlWord true opCompress f p)
  | .decompress f p => putLE32 (ctrlWord true opDecompress f p)
  | .tokrecLit v => litRecordBytes v
  | .tokrecMatch l d => matchRecordBytes l d
  | .candrec l d => candRecordBytes l d

/-- The form in which an instruction is read. -/
def Instr.form : Instr → Form
  | .ctrlbyte _ => .control
  | .lit _ => .literal
  | .matchTok _ _ => .matchPair
  | .hdr16 _ _ _ => .header16
  | .mword _ _ => .methodWord
  | .find _ _ => .command
  | .price _ _ => .command
  | .parse _ _ => .command
  | .encode _ _ => .command
  | .compress _ _ => .command
  | .decompress _ _ => .command
  | .tokrecLit _ => .record
  | .tokrecMatch _ _ => .record
  | .candrec _ _ => .candidate

/-- The form and bytes that the opcode table's bits stand for, by their number (log entry 14): 8 bits a control byte,
16 bits a match word laid out big-endian (R65), 32 bits a CTRL word when it starts one of the six commands and else a
method word, 64 bits a token record, 128 bits an LZ10 header. -/
def tableForm (nbits w : Nat) : Form × List Byte :=
  if nbits ≤ 8 then (.control, [BitVec.ofNat 8 w])
  else if nbits ≤ 16 then (.matchPair, [BitVec.ofNat 8 (w / 256), BitVec.ofNat 8 w])
  else if nbits ≤ 32 then
    match decodeCommand (u32 w) with
    | .ok _ => (.command, putLE32 (u32 w))
    | .error _ => (.methodWord, putLE32 (u32 w))
  else if nbits ≤ 64 then (.record, putLE64 (BitVec.ofNat 64 w))
  else (.header16, putLE64 (BitVec.ofNat 64 w) ++ putLE64 (BitVec.ofNat 64 (w / 2 ^ 64)))

/-- The instruction the decoder reads from bits numbered as the opcode table numbers them. -/
def decodeTableWord (nbits w : Nat) : Option Instr :=
  match decode (tableForm nbits w).1 (tableForm nbits w).2 with
  | .ok (i, _) => some i
  | .error _ => none

end Sys2Proof
end

