-- ==== Sys2Proof/Machine/State.lean ====
section
/-! DEFINITION. The state of one KLZ instance as plain data, its faults and refusals, and the state after reset. -/

namespace Sys2Proof.Machine

/-- A byte space (IN or OUT, R60): the bytes whose value is settled, by rising index, and the number of the draw that
every other index reads from (log entry 4). -/
structure Memory where
  cells : List Host.Cell
  epoch : Nat
  deriving DecidableEq, Repr

/-- The stored fields of CTRL (R26). START is not stored: it reads 0. -/
structure Ctrl where
  op       : BitVec 4
  framing  : Bool
  preserve : Bool
  deriving DecidableEq, Repr

/-- STATUS (R27, R40). BUSY is also the engine's phase (R21). -/
structure Status where
  busy    : Bool
  done    : Bool
  err     : Bool
  errCode : BitVec 4
  deriving DecidableEq, Repr

/-- The host-programmed operand registers (R28, R29, R30). -/
structure Operands where
  scheme    : BitVec 4
  inLen     : Word
  findPos   : Word
  priceLen  : Word
  priceDisp : Word
  deriving DecidableEq, Repr

/-- The registers that only a completion step writes (R31). -/
structure Results where
  outLen    : Word
  result0   : Word
  result1   : Word
  errOffset : Word
  deriving DecidableEq, Repr

/-- The operands latched at START acceptance (R35, R216). -/
structure Latched where
  op       : BitVec 4
  framing  : Bool
  preserve : Bool
  scheme   : BitVec 4
  n        : Word
  pos      : Word
  plen     : Word
  pdisp    : Word
  deriving DecidableEq, Repr

/-- The decoder's working registers (R36). RDPTR is the program counter of the token stream (R37). -/
structure DecRegs where
  rdptr    : Word
  outpos   : Word
  size     : Word
  flags    : Byte
  bitsLeft : Nat
  toks     : Word
  deriving DecidableEq, Repr

/-- The encoder's working registers (R38). -/
structure EncRegs where
  group  : Byte
  groupN : Nat
  wrptr  : Word
  deriving DecidableEq, Repr

/-- An edge of the parser's graph (R151): its source position and the token it carries. -/
structure Edge where
  src : Nat
  tok : Token
  deriving DecidableEq, Repr

/-- The optimal parser's arrays (R41): best[0..n] and pred[1..n]. -/
structure Dp where
  best : List Nat
  pred : List Edge
  deriving DecidableEq, Repr

/-- What a BUSY engine does next (the model's own field, log entry 2). `command`: the completion step of the latched
command as a whole (R21). The others: the next internal instruction of a command that was opened. -/
inductive Stage where
  | command
  /-- DECOMPRESS: the header stage (R180, R203) -/
  | header
  /-- DECOMPRESS: the stream stage (R181) -/
  | stream
  /-- ENCODE: reading token records (R176) -/
  | readRecords
  /-- FIND: writing candidate records (R130) -/
  | putCands
  /-- PARSE: writing token records (R160) -/
  | putTokens
  deriving DecidableEq, Repr

/-- The three address spaces (R60). -/
inductive Space where
  | csr
  | inBuf
  | outBuf
  deriving DecidableEq, Repr

/-- What the outside does next (R20, 20_memory.md section 3; log entry 1). -/
inductive Event where
  /-- a host read of `n` bytes of a space -/
  | load (sp : Space) (a n : Nat)
  /-- a host write of bytes to a space, the first byte at the lowest index -/
  | store (sp : Space) (a : Nat) (bs : List Byte)
  /-- a host read at a platform address (R64) -/
  | loadAt (addr n : Nat)
  /-- a host write at a platform address (R64) -/
  | storeAt (addr : Nat) (bs : List Byte)
  /-- WAIT: read STATUS until BUSY = 0; the engine moves meanwhile (R115) -/
  | wait
  /-- the engine's turn: its completion step, or its next internal instruction where the command was opened (R21, R285) -/
  | engine
  /-- the engine's turn, taken as the opening of its command into internal instructions (log entry 2) -/
  | internal
  /-- reset (R270, R271) -/
  | reset
  deriving DecidableEq, Repr

/-- What the last host read returned. -/
inductive HostData where
  | none
  | word (w : Word)
  /-- the byte at the lowest index first (R67) -/
  | bytes (bs : List Byte)
  deriving DecidableEq, Repr

/-- The error codes of R241. -/
inductive ErrCode where
  | unsupportedScheme
  | malformedHeader
  | truncatedStream
  | invalidMatch
  | sizeOverflow
  | overrun
  | illegalCommand
  | capacityExceeded
  | malformedToken
  deriving DecidableEq, Repr

/-- Faults: no rule of the spec stops KLZ; both name a case that no step reaches, and both are safe (the model stops
where the hardware has no behaviour at all). -/
inductive Fault where
  /-- raised by the stream loop of DECOMPRESS if an instruction of another level stood in the stream (never: safe) -/
  | strayInstr
  /-- raised by the stream loop of DECOMPRESS if it ran past its bound of turns (never: safe) -/
  | turnBound
  deriving DecidableEq, Repr

/-- Refusals: the cases 93_implementation_defined.md treats as `refuse` (R44, R255). All are safe: the run has no
further meaning. -/
inductive Refusal where
  /-- an instruction without a meaning yet; raised by exec's arms only -/
  | notModelled (mnemonic : String)
  /-- a command whose scheme is HUFF4, HUFF8 or RLE, by SCHEME or by method tag (U13, R218, R206) -/
  | schemeNotInSource
  /-- ENCODE, COMPRESS or DECOMPRESS of a BACKWARDS scheme (U14, R179) -/
  | backwardsCodec
  /-- a command whose registry entry is ill-formed (U15, R24) -/
  | illFormedEntry
  /-- a host CSR access that is not an aligned 32-bit access (U16, R66) -/
  | csrAccessShape
  /-- a host access at or above a capacity, or at a CSR offset of 256 or more (U16, R60, R67) -/
  | hostOutOfRange
  /-- a host write to IN or OUT while BUSY (U17, R280) -/
  | hostWriteWhileBusy
  /-- a host access at a platform address in none of the three spaces (R60, R64) -/
  | noSuchAddress
  deriving DecidableEq, Repr

/-- The state of one KLZ instance. -/
structure State where
  /-- the OPEN parameters of the instance (R6); no step changes them -/
  params   : Params
  ctrl     : Ctrl
  status   : Status
  opnd     : Operands
  res      : Results
  cmd      : Latched
  dec      : DecRegs
  enc      : EncRegs
  /-- best and pred, absent but during a parse (R41, R45) -/
  dp       : Option Dp
  /-- the candidate set of the FIND in progress (R219) -/
  cands    : List Cand
  /-- the token sequence of the PARSE or ENCODE in progress (R150, R176) -/
  seq      : List Token
  inMem    : Memory
  outMem   : Memory
  stage    : Stage
  /-- the next draw of unspecified bytes (log entry 4) -/
  draws    : Nat
  /-- what the outside does next, oldest first (log entry 1) -/
  agenda   : List Event
  hostData : HostData
  deriving DecidableEq, Repr

/-- The state after reset of an instance with parameters `p`, its IN and OUT unspecified bytes of draws `k` and
`k + 1` (R45, R270). The working registers are unspecified and unobservable; zero is the model's choice (log entry 5). -/
def State.resetWith (p : Params) (k : Nat) (agenda : List Event) : State where
  params   := p
  ctrl     := { op := 0#4, framing := false, preserve := false }
  status   := { busy := false, done := false, err := false, errCode := 0#4 }
  opnd     := { scheme := 1#4, inLen := 0#32, findPos := 0#32, priceLen := 0#32, priceDisp := 0#32 }
  res      := { outLen := 0#32, result0 := 0#32, result1 := 0#32, errOffset := 0#32 }
  cmd      := { op := 0#4, framing := false, preserve := false, scheme := 0#4, n := 0#32, pos := 0#32,
                plen := 0#32, pdisp := 0#32 }
  dec      := { rdptr := 0#32, outpos := 0#32, size := 0#32, flags := 0#8, bitsLeft := 0, toks := 0#32 }
  enc      := { group := 0#8, groupN := 0, wrptr := 0#32 }
  dp       := none
  cands    := []
  seq      := []
  inMem    := { cells := [], epoch := k }
  outMem   := { cells := [], epoch := k + 1 }
  stage    := .command
  draws    := k + 2
  agenda   := agenda
  hostData := .none

/-- The machine right after reset (R270): the engine IDLE, waiting for a START (R272). -/
def State.reset : State := State.resetWith Config.resetParams 0 []

end Sys2Proof.Machine
end

