-- ==== Sys2Proof/Machine/Flags.lean ====
section
/-! DEFINITION. STATUS and the error codes: every flag computation the spec gives (R27, R40, R241). -/

namespace Sys2Proof.Machine

/-- STATUS.ERRCODE of an error (R241). -/
def ErrCode.code : ErrCode → BitVec 4
  | .unsupportedScheme => 1#4
  | .malformedHeader => 2#4
  | .truncatedStream => 3#4
  | .invalidMatch => 4#4
  | .sizeOverflow => 5#4
  | .overrun => 6#4
  | .illegalCommand => 7#4
  | .capacityExceeded => 8#4
  | .malformedToken => 9#4

/-- STATUS at START acceptance: BUSY set, DONE, ERR and ERRCODE cleared (R215, R40). -/
def statusBusy : Status := { busy := true, done := false, err := false, errCode := 0#4 }

/-- STATUS after a completion without error (R219). -/
def statusDone : Status := { busy := false, done := true, err := false, errCode := 0#4 }

/-- STATUS after an error (R250). -/
def statusErr (e : ErrCode) : Status := { busy := false, done := false, err := true, errCode := e.code }

/-- STATUS as the host reads it (R27): BUSY, DONE, ERR in bits 0..2, bit 3 zero, ERRCODE in bits 7:4. -/
def Status.word (s : Status) : Word :=
  0#24 ++ s.errCode ++ 0#1 ++ BitVec.ofBool s.err ++ BitVec.ofBool s.done ++ BitVec.ofBool s.busy

/-- The tag of a token in a control byte: literal 0, match 1 (R39, R173). -/
def tokenTag : Token → Bool
  | .lit _ => false
  | .mat _ _ => true

/-- The control byte with the tag of token `j` (0..7) set in bit `7 - j` (R90, R173). -/
def setTag (group : Byte) (j : Nat) (tag : Bool) : Byte :=
  group ||| (BitVec.ofNat 8 tag.toNat <<< (7 - j))

/-- The tag that is due: bit 7 of FLAGS (R181). -/
def DecRegs.tag (d : DecRegs) : Bool := d.flags.getLsbD 7

/-- FLAGS and BITSLEFT once the tag that was due is used (R181). -/
def DecRegs.useTag (d : DecRegs) : DecRegs :=
  { d with flags := d.flags <<< 1, bitsLeft := d.bitsLeft - 1 }

end Sys2Proof.Machine
end

