-- ==== Sys2Proof/Machine/Ops.lean ====
section
/-! DEFINITION. The shared operations: one field's update each, byte memory in canonical form, START acceptance, the
completion step, and TAKING AN ERROR (error entry, R250, with and without the output it leaves unspecified). -/

namespace Sys2Proof.Machine

/-- The outcome of a step of KLZ. -/
abbrev Outcome := Host.Outcome State Fault Refusal

/-! ## Updates of one field -/

def State.setCtrl (s : State) (v : Ctrl) : State := { s with ctrl := v }
def State.setStatus (s : State) (v : Status) : State := { s with status := v }
def State.setOpnd (s : State) (v : Operands) : State := { s with opnd := v }
def State.setRes (s : State) (v : Results) : State := { s with res := v }
def State.setCmd (s : State) (v : Latched) : State := { s with cmd := v }
def State.setDec (s : State) (v : DecRegs) : State := { s with dec := v }
def State.setEnc (s : State) (v : EncRegs) : State := { s with enc := v }
def State.setDp (s : State) (v : Option Dp) : State := { s with dp := v }
def State.setCands (s : State) (v : List Cand) : State := { s with cands := v }
def State.setSeq (s : State) (v : List Token) : State := { s with seq := v }
def State.setIn (s : State) (v : Memory) : State := { s with inMem := v }
def State.setOut (s : State) (v : Memory) : State := { s with outMem := v }
def State.setStage (s : State) (v : Stage) : State := { s with stage := v }
def State.setDraws (s : State) (v : Nat) : State := { s with draws := v }
def State.setAgenda (s : State) (v : List Event) : State := { s with agenda := v }
def State.setHostData (s : State) (v : HostData) : State := { s with hostData := v }

/-! ## Byte memory -/

/-- The cell list with the byte at `a` set to `v`, indices kept strictly rising. -/
def insertCell (a : Nat) (v : Byte) : List Host.Cell → List Host.Cell
  | [] => [(a, v)]
  | (b, w) :: t =>
    if a < b then (a, v) :: (b, w) :: t
    else if a = b then (a, v) :: t
    else (b, w) :: insertCell a v t

/-- The settled byte at `a`, if any. -/
def lookupCell (a : Nat) : List Host.Cell → Option Byte
  | [] => none
  | (b, w) :: t => if a = b then some w else lookupCell a t

/-- What an index that no cell settles reads as: the unspecified byte of the memory's draw (U5 to U7, log entry 4). -/
def Memory.unlisted (m : Memory) (a : Nat) : Byte := Config.freeByte m.epoch a

/-- Reading one byte (R69). -/
def Memory.read (m : Memory) (a : Nat) : Byte :=
  match lookupCell a m.cells with
  | some v => v
  | none => m.unlisted a

/-- Writing one byte (R69). -/
def Memory.write (m : Memory) (a : Nat) (v : Byte) : Memory := { m with cells := insertCell a v m.cells }

/-- `n` bytes from index `a`, the lowest index first. -/
def Memory.readBytes (m : Memory) : Nat → Nat → List Byte
  | _, 0 => []
  | a, n + 1 => m.read a :: m.readBytes (a + 1) n

/-- Bytes written from index `a` upward, one after the other. -/
def Memory.writeBytes (m : Memory) : Nat → List Byte → Memory
  | _, [] => m
  | a, b :: bs => (m.write a b).writeBytes (a + 1) bs

/-- The bytes at indices below `n` made unspecified: each is drawn (R251, U5). -/
def Memory.drawBelow (m : Memory) (k : Nat) : Nat → Memory
  | 0 => m
  | n + 1 => (m.drawBelow k n).write n (Config.freeByte k n)

/-- Cell indices are strictly rising, the first above `lo` where `lo` is given. -/
def risingFrom : Option Nat → List Host.Cell → Bool
  | _, [] => true
  | none, (a, _) :: t => risingFrom (some a) t
  | some lo, (a, _) :: t => decide (lo < a) && risingFrom (some a) t

/-- The canonical form of a memory: strictly rising indices. An index without a cell has no settled byte, so no cell
can repeat what it would read as anyway (log entry 4). -/
def Memory.wf (m : Memory) : Bool := risingFrom none m.cells

/-- Every cell lies below the capacity (R60, R246). -/
def Memory.below (m : Memory) (cap : Nat) : Bool := m.cells.all (fun c => decide (c.1 < cap))

/-- Bytes written to OUT at WRPTR, which moves past them (R38; for FIND's and PARSE's records log entry 6). -/
def State.emit (s : State) (bs : List Byte) : State :=
  { s with
    outMem := s.outMem.writeBytes s.enc.wrptr.toNat bs
    enc := { s.enc with wrptr := s.enc.wrptr + u32 bs.length } }

/-! ## Ending a command -/

/-- The decoder's working registers once released in draw `k` (R219): free values within the widths of R36. -/
def releasedDec (k : Nat) : DecRegs where
  rdptr    := u32 (Config.freeRegister k 0)
  outpos   := u32 (Config.freeRegister k 1)
  size     := u32 (Config.freeRegister k 2)
  flags    := BitVec.ofNat 8 (Config.freeRegister k 3)
  bitsLeft := Config.freeRegister k 4 % 9
  toks     := u32 (Config.freeRegister k 5)

/-- The encoder's working registers once released in draw `k` (R219): free values within the widths of R38. -/
def releasedEnc (k : Nat) : EncRegs where
  group  := BitVec.ofNat 8 (Config.freeRegister k 6)
  groupN := Config.freeRegister k 7 % 9
  wrptr  := u32 (Config.freeRegister k 8)

/-- Working registers, candidate set, token sequence, best and pred do not survive a completion step (R219): the
registers hold free values from then on (log entry 7), the others are gone; the engine is IDLE. -/
def State.release (s : State) : State :=
  { s with
    dec := releasedDec s.draws
    enc := releasedEnc s.draws
    draws := s.draws + 1
    dp := none
    cands := []
    seq := []
    stage := .command }

/-- The completion step of a command that ran without raising (R219, R31): results by the command's rule, each taken
mod 2^32 (D36). -/
def State.complete (s : State) (outLen result0 result1 : Nat) : State :=
  { s.release with
    status := statusDone
    res := { outLen := u32 outLen, result0 := u32 result0, result1 := u32 result1, errOffset := 0#32 } }

/-- TAKING AN ERROR (R250): the completion step of a command that raises error `e` with offset `off`. OUT is as it
was (R251). -/
def State.errorEntry (s : State) (e : ErrCode) (off : Nat) : State :=
  { s.release with
    status := statusErr e
    res := { outLen := 0#32, result0 := 0#32, result1 := 0#32, errOffset := u32 off } }

/-- An error of the stream stage (R251): error entry, and `OUT[0..SIZE)` is unspecified from then on, in the same draw
as the released registers. -/
def State.streamError (s : State) (e : ErrCode) (off : Nat) : State :=
  { s.errorEntry e off with outMem := s.outMem.drawBelow s.draws s.dec.size.toNat }

/-- How the pseudocode of a command ends early: `raise E(offset)` (R11) or a refusal (R255). -/
inductive Stop where
  | raise (e : ErrCode) (off : Nat)
  | refuse (r : Refusal)
  deriving DecidableEq, Repr

/-- The outcome of a command run from `s`: its next state, error entry from `s` (R253), or a refusal. -/
def settle (s : State) : Except Stop State → Outcome
  | .ok t => .next t
  | .error (.raise e off) => .next (s.errorEntry e off)
  | .error (.refuse r) => .refused r

/-- One outcome after another: the second runs from the first's next state. -/
def andThen (o : Outcome) (f : State → Outcome) : Outcome :=
  match o with
  | .next t => f t
  | .fault r => .fault r
  | .refused r => .refused r

/-! ## Starting a command -/

/-- START acceptance (R215, R216): a CTRL word with START = 1 while the engine is IDLE. -/
def State.acceptStart (s : State) (w : Word) : State :=
  { s with
    ctrl := { op := ctrlOp w, framing := ctrlFraming w, preserve := ctrlPreserve w }
    status := statusBusy
    cmd := { op := ctrlOp w, framing := ctrlFraming w, preserve := ctrlPreserve w,
             scheme := s.opnd.scheme, n := s.opnd.inLen, pos := s.opnd.findPos,
             plen := s.opnd.priceLen, pdisp := s.opnd.priceDisp }
    stage := .command }

end Sys2Proof.Machine
end

