-- ==== Sys2Proof/Machine/Operands.lean ====
section
/-! DEFINITION. The operand forms of commands and tokens: the input, the stream bytes at RDPTR, a token record, the
history a displacement reaches, and the spans and bytes of tokens. -/

namespace Sys2Proof.Machine

/-- `x = IN[0..cmd.N)` (R61, R63). -/
def State.input (s : State) : List Byte := s.inMem.readBytes 0 s.cmd.n.toNat

/-- The stream bytes the decoder may fetch next: at most `k` of `IN[RDPTR..cmd.N)` (R182). -/
def State.streamWindow (s : State) (k : Nat) : List Byte :=
  s.inMem.readBytes s.dec.rdptr.toNat (min k (s.cmd.n.toNat - s.dec.rdptr.toNat))

/-- The first bytes of the stream, at most `k` and at most cmd.N (R180, R203). -/
def State.headerWindow (s : State) (k : Nat) : List Byte := s.inMem.readBytes 0 (min k s.cmd.n.toNat)

/-- The eight bytes of ENCODE's record `r` (R176). -/
def State.recordWindow (s : State) (r : Nat) : List Byte := s.inMem.readBytes (8 * r) 8

/-- `hist(q - d)` at output position `q` (R186): OUT at or after position 0, the pre-buffer before it. -/
def histByte (pre : List Byte) (out : Memory) (q d : Nat) : Byte :=
  if d ≤ q then out.read (q - d) else (pre[pre.length + q - d]?).getD 0#8

/-- The copy of a match (R185, R69, R283): `l` single-byte steps in increasing position, each read after the previous
write. -/
def copyMatch (pre : List Byte) (d : Nat) : Nat → Nat → Memory → Memory
  | 0, _, out => out
  | l + 1, q, out => copyMatch pre d l (q + 1) (out.write q (histByte pre out q d))

/-- How many bytes of the input a token stands for (R12). -/
def span : Token → Nat
  | .lit _ => 1
  | .mat l _ => l

/-- The sum of the spans (R150). -/
def spans : List Token → Nat
  | [] => 0
  | t :: ts => span t + spans ts

/-- The bytes of a token in the stream (R174). -/
def tokenBytes : Token → List Byte
  | .lit b => [b]
  | .mat l d => matchBytes l d

/-- The token record of a token as PARSE writes it (R111). -/
def tokenRecord : Token → Instr
  | .lit b => .tokrecLit b
  | .mat l d => .tokrecMatch (u16 l) (u16 d)

/-- The candidate record of a candidate as FIND writes it (R112). -/
def candRecord (c : Cand) : Instr := .candrec (u16 c.len) (u16 c.disp)

/-- `(l, d)` is within a scheme's limitations (R143, R176). -/
def admits (L : Limitations) (l d : Nat) : Bool :=
  decide (L.minLength ≤ l) && decide (l ≤ L.maxLength)
    && decide (L.minDisplacement ≤ d) && decide (d ≤ L.maxDisplacement)

end Sys2Proof.Machine
end

