-- ==== Sys2Proof/Machine/Registry.lean ====
section
/-! DEFINITION. The scheme registry of this hardware (R22, R23), well-formedness of an entry (R24), METHOD_MAP lookups
(R99, R200) and the checks common to every command (R245). -/

namespace Sys2Proof.Machine

def noLimits : Limitations :=
  { minLength := 0, maxLength := 0, minDisplacement := 0, maxDisplacement := 0, unitSize := 0 }

/-- Id 0, NONE: no finder, no tokens, raw copy in the method container. -/
def entryNone : Entry where
  name := "NONE"
  registered := true
  implemented := true
  hasFinder := false
  lim := noLimits
  pre := []
  backwards := false
  parser := .optimal
  litCost := 0
  matchCost := fun _ _ => 0
  codec := .raw

/-- Id 1, LZ10 (R23; prices R141). -/
def entryLz10 : Entry where
  name := "LZ10"
  registered := true
  implemented := true
  hasFinder := true
  lim := { minLength := 3, maxLength := 18, minDisplacement := 1, maxDisplacement := 4096, unitSize := 1 }
  pre := []
  backwards := false
  parser := .optimal
  litCost := 9
  matchCost := fun _ _ => 17
  codec := .lz10

/-- Ids 2, 3 and 4: registered, in the hardware, their format in no source. -/
def entryNoSource (name : String) : Entry where
  name := name
  registered := true
  implemented := false
  hasFinder := false
  lim := noLimits
  pre := []
  backwards := false
  parser := .optimal
  litCost := 0
  matchCost := fun _ _ => 0
  codec := .notInSource

/-- Ids 5 to 15: unregistered. -/
def entryUnregistered : Entry := { entryNoSource "unregistered" with registered := false }

/-- The registry (R23). It is a constant: no step and no host access writes it (R22, R273). -/
def registry : Registry := fun id =>
  if id = 0#4 then entryNone
  else if id = 1#4 then entryLz10
  else if id = 2#4 then entryNoSource "HUFF4"
  else if id = 3#4 then entryNoSource "HUFF8"
  else if id = 4#4 then entryNoSource "RLE"
  else entryUnregistered

/-- Well-formedness of an entry with a finder (R24); that the prices are total is their type. -/
def entryWf (S : Entry) : Bool :=
  !S.hasFinder ||
    (decide (1 ≤ S.lim.minLength) && decide (S.lim.minLength ≤ S.lim.maxLength) && decide (S.lim.maxLength ≤ 65535)
      && decide (1 ≤ S.lim.minDisplacement) && decide (S.lim.minDisplacement ≤ S.lim.maxDisplacement)
      && decide (S.lim.maxDisplacement ≤ 65535) && decide (S.lim.unitSize = 1) && decide (S.pre.length ≤ 65535))

/-- The entry is scheme NONE where its wire format is asked for: its codec is the raw copy. DESIGN CHOICE, log entry 24,
for a registry given as a parameter; in this hardware's it is the entry of id 0. -/
def isNone (S : Entry) : Bool := decide (S.codec = .raw)

/-- The scheme a method tag selects (R99). -/
def methodScheme (p : Params) (m : BitVec 3) : Option (BitVec 4) := (p.methodMap[m.toNat]?).join

/-- The least method tag from `m` on that maps to a scheme, among `k` tags (R200). -/
def leastMethodFrom (p : Params) (id : BitVec 4) : Nat → Nat → Option Nat
  | _, 0 => none
  | m, k + 1 => if (p.methodMap[m]?).join = some id then some m else leastMethodFrom p id (m + 1) k

/-- The least method tag that maps to a scheme (R200). -/
def leastMethod (p : Params) (id : BitVec 4) : Option Nat := leastMethodFrom p id 0 8

/-- The six commands. -/
inductive Command where
  | find
  | price
  | parse
  | encode
  | compress
  | decompress
  deriving DecidableEq, Repr

/-- FIND, PRICE, PARSE and ENCODE work on a scheme's finder, prices or tokens (R245). -/
def Command.usesTokens : Command → Bool
  | .find => true
  | .price => true
  | .parse => true
  | .encode => true
  | .compress => false
  | .decompress => false

/-- FIND, PRICE and PARSE use a scheme's finder and prices alone, never its wire format (R217). -/
def Command.usesFinder : Command → Bool
  | .find => true
  | .price => true
  | .parse => true
  | .encode => false
  | .compress => false
  | .decompress => false

/-- ENCODE, COMPRESS and DECOMPRESS read or write a scheme's wire format (R179). -/
def Command.usesCodec : Command → Bool
  | .find => false
  | .price => false
  | .parse => false
  | .encode => true
  | .compress => true
  | .decompress => true

/-- DECOMPRESS with FRAMING = 1 takes its scheme from the method word, not from SCHEME (R205). -/
def takesMethodWord (c : Command) (framing : Bool) : Bool := decide (c = .decompress) && framing

/-- What the common checks and the method word ask of a registry entry before any scheme-specific rule: registered
(UnsupportedScheme), its format in a source and the entry well-formed (R218). R245 and R203 do not list the refusal of an
ill-formed entry: that it stands here, behind the other two and before every later check of either path, is DESIGN CHOICE,
log entry 25. -/
def checkEntry (S : Entry) : Except Stop Entry :=
  if S.registered = false then .error (.raise .unsupportedScheme 0)
  else if S.implemented = false then .error (.refuse .schemeNotInSource)
  else if entryWf S = false then .error (.refuse .illFormedEntry)
  else .ok S

/-- The commands that scheme NONE does not serve raise IllegalCommand (R245, R207); but FIND, PRICE and PARSE admit every
implemented entry with a finder, whatever its wire format (R217). -/
def noneRejects (S : Entry) (c : Command) (framing : Bool) : Bool :=
  isNone S && !(c.usesFinder && S.hasFinder) && (c.usesTokens || !framing)

/-- The common checks (R245) after the check of OP, which fetching the command makes; they answer the scheme, which
DECOMPRESS with FRAMING = 1 does not use. Over another registry an implemented entry without a finder that is not NONE
gets past them: DESIGN CHOICE, log entry 24. -/
def commonChecks (reg : Registry) (c : Command) (framing : Bool) (s : State) : Except Stop Entry :=
  if s.params.inCap < s.cmd.n.toNat then .error (.raise .illegalCommand 0)
  else if takesMethodWord c framing = true then .ok (reg s.cmd.scheme)
  else
    match checkEntry (reg s.cmd.scheme) with
    | .error e => .error e
    | .ok S =>
      if noneRejects S c framing = true then .error (.raise .illegalCommand 0)
      else if S.backwards = true ∧ c.usesCodec = true then .error (.refuse .backwardsCodec)
      else .ok S

end Sys2Proof.Machine
end

