-- ==== Sys2Proof/Machine/MatchFinder.lean ====
section
/-! DEFINITION. The match finder (40_match_finder.md): the virtual array, the exhaustive candidate set, and FIND with
its record CANDREC. -/

namespace Sys2Proof.Machine

/-- The oriented input `x'` (R120, R129). -/
def oriented (S : Entry) (x : List Byte) : List Byte := if S.backwards then x.reverse else x

/-- How many leading bytes two lists share, at most `limit`. -/
def commonPrefix : Nat → List Byte → List Byte → Nat
  | 0, _, _ => 0
  | _ + 1, [], _ => 0
  | _ + 1, _ :: _, [] => 0
  | m + 1, a :: as, b :: bs => if a = b then commonPrefix m as bs + 1 else 0

/-- `ext(i, d)` over the oriented input `x'` (R124): the comparison of R121 on the virtual array `V = PRE ++ x'`. -/
def matchExtent (S : Entry) (x' : List Byte) (i d : Nat) : Nat :=
  commonPrefix (min S.lim.maxLength (x'.length - i))
    ((S.pre ++ x').drop (S.pre.length + i - d)) ((S.pre ++ x').drop (S.pre.length + i))

/-- The naturals from `lo` to `hi`, rising; none when `hi < lo`. -/
def natsFromTo (lo hi : Nat) : List Nat := List.range' lo (hi + 1 - lo)

/-- The candidates of one displacement, by rising length (R123). -/
def candidatesAt (S : Entry) (x' : List Byte) (i d : Nat) : List Cand :=
  (natsFromTo S.lim.minLength (matchExtent S x' i d)).map (fun l => { len := l, disp := d })

/-- The candidate set `C(i)` by the exhaustive strategy (R121, R123), in FIND's order: by displacement, then by length
(R130). -/
def candidates (S : Entry) (x' : List Byte) (i : Nat) : List Cand :=
  (natsFromTo S.lim.minDisplacement (min S.lim.maxDisplacement (S.pre.length + i))).flatMap (candidatesAt S x' i)

/-- R121 word for word: `(l, d)` is a candidate at position `i` of the oriented input. -/
def IsCandidate (S : Entry) (x' : List Byte) (i l d : Nat) : Prop :=
  S.lim.minLength ≤ l ∧ l ≤ min S.lim.maxLength (x'.length - i)
    ∧ S.lim.minDisplacement ≤ d ∧ d ≤ min S.lim.maxDisplacement (S.pre.length + i)
    ∧ ∀ k, k < l → (S.pre ++ x')[S.pre.length + i - d + k]? = (S.pre ++ x')[S.pre.length + i + k]?

/-- CANDREC: FIND writes one candidate record (R112, R130). -/
def putCand (l d : BitVec 16) (s : State) : State := s.emit (candRecordBytes l d)

/-- FIND's checks and candidate set, up to its first OUT write (R130). -/
def openFind (reg : Registry) (framing : Bool) (s : State) : Except Stop State :=
  match commonChecks reg .find framing s with
  | .error e => .error e
  | .ok S =>
    if s.cmd.n.toNat < s.cmd.pos.toNat then .error (.raise .illegalCommand 0)
    else
      let C := candidates S (oriented S s.input) s.cmd.pos.toNat
      if s.params.outCap < 4 * C.length then .error (.raise .capacityExceeded 0)
      else .ok { s with cands := C, enc := { s.enc with wrptr := 0#32 }, stage := .putCands }

/-- FIND's records written one after the other. -/
def putCands (cs : List Cand) (s : State) : State :=
  cs.foldl (fun t c => putCand (u16 c.len) (u16 c.disp) t) s

/-- FIND's completion step (R220). -/
def finishFind (s : State) : State := s.complete (4 * s.cands.length) s.cands.length 0

/-- FIND over a registry (R130, R217). -/
def findOver (reg : Registry) (framing : Bool) (s : State) : Outcome :=
  settle s ((openFind reg framing s).map (fun t => finishFind (putCands t.cands t)))

/-- FIND: the completion step that enumerates the candidate set at one position (R130); RSVD_PRESERVE is ignored. -/
def execFind (framing _preserve : Bool) (s : State) : Outcome := findOver registry framing s

/-- CANDREC as one internal instruction of a FIND that was opened (R112, R130). -/
def execCandrec (l d : BitVec 16) (s : State) : Outcome := .next (putCand l d s)

end Sys2Proof.Machine
end

