-- ==== Sys2Proof/Machine/Price.lean ====
section
/-! DEFINITION. The price calculator (41_price.md) and PRICE. -/

namespace Sys2Proof.Machine

/-- The cost of a token in bits (R140, R142). -/
def tokenCost (S : Entry) : Token → Nat
  | .lit _ => S.litCost
  | .mat l d => S.matchCost l d

/-- The cost of a token sequence, an exact natural (R142). -/
def cost (S : Entry) : List Token → Nat
  | [] => 0
  | t :: ts => tokenCost S t + cost S ts

/-- PRICE over a registry (R143): no IN byte is read, no OUT byte is written (R63). -/
def priceOver (reg : Registry) (framing : Bool) (s : State) : Outcome :=
  settle s
    (match commonChecks reg .price framing s with
    | .error e => .error e
    | .ok S =>
      if admits S.lim s.cmd.plen.toNat s.cmd.pdisp.toNat = false then .error (.raise .invalidMatch 0)
      else .ok (s.complete 0 S.litCost (S.matchCost s.cmd.plen.toNat s.cmd.pdisp.toNat)))

/-- PRICE: the two prices of the selected scheme (R143, R221); RSVD_PRESERVE is ignored. -/
def execPrice (framing _preserve : Bool) (s : State) : Outcome := priceOver registry framing s

end Sys2Proof.Machine
end

