-- ==== Sys2Proof/Machine/Parser.lean ====
section
/-! DEFINITION. The match parser (42_parser.md): the graph, best and pred, backtracking, the greedy parser, PARSE and
the token records TOKREC_LIT and TOKREC_MATCH, which PARSE writes and ENCODE reads. -/

namespace Sys2Proof.Machine

/-! ## The optimal parser -/

/-- Where an edge leads (R151). -/
def Edge.target (e : Edge) : Nat := e.src + span e.tok

/-- The edges that leave position `i` (R151): the literal edge and one match edge per candidate. -/
def edgesFrom (S : Entry) (x' : List Byte) (i : Nat) : List Edge :=
  { src := i, tok := .lit ((x'[i]?).getD 0#8) }
    :: (candidates S x' i).map (fun c => { src := i, tok := .mat c.len c.disp })

/-- All edges of the graph (R151). -/
def edges (S : Entry) (x' : List Byte) : List Edge := (List.range x'.length).flatMap (edgesFrom S x')

/-- The displacement of an edge's token for the tie-break: a literal counts as 0 (R153). -/
def tokenDisp : Token → Nat
  | .lit _ => 0
  | .mat _ d => d

/-- `best[src(e)] + weight(e)` (R152). -/
def Edge.total (S : Entry) (best : List Nat) (e : Edge) : Nat := (best[e.src]?).getD 0 + tokenCost S e.tok

/-- Lexicographic order of lists of naturals of one length. -/
def lexLess : List Nat → List Nat → Bool
  | [], _ => false
  | _ :: _, [] => false
  | a :: as, b :: bs => decide (a < b) || (decide (a = b) && lexLess as bs)

/-- The least cost first (R152), then `key(e) = (weight(e), disp(e), n - len(e))` (R153). -/
def Edge.rank (S : Entry) (n : Nat) (best : List Nat) (e : Edge) : List Nat :=
  [e.total S best, tokenCost S e.tok, tokenDisp e.tok, n - span e.tok]

/-- The edge of least rank in a list, the given one the least so far. -/
def leastEdge (S : Entry) (n : Nat) (best : List Nat) : Edge → List Edge → Edge
  | a, [] => a
  | a, b :: es => leastEdge S n best (if lexLess (b.rank S n best) (a.rank S n best) then b else a) es

/-- best[j] and pred[j] from the edges into `j` (R152, R153), with best[0..j) and pred[1..j) known. -/
def dpExtend (S : Entry) (n : Nat) (es : List Edge) (dp : Dp) (j : Nat) : Dp :=
  match es.filter (fun e => e.target = j) with
  | [] => dp
  | e :: rest =>
    let p := leastEdge S n dp.best e rest
    { best := dp.best ++ [p.total S dp.best], pred := dp.pred ++ [p] }

/-- The arrays for positions 0 to `k` (R152, R153). -/
def dpUpTo (S : Entry) (n : Nat) (es : List Edge) : Nat → Dp
  | 0 => { best := [0], pred := [] }
  | k + 1 => dpExtend S n es (dpUpTo S n es k) (k + 1)

/-- The optimal parser's arrays for an oriented input (R41, R151). -/
def dpArrays (S : Entry) (x' : List Byte) : Dp := dpUpTo S x'.length (edges S x') x'.length

/-- Backtracking predecessor pointers from `j`, in at most `k` steps (R154). -/
def backtrack (pred : List Edge) : Nat → Nat → List Token → List Token
  | 0, _, T => T
  | _ + 1, 0, T => T
  | k + 1, j + 1, T =>
    match pred[j]? with
    | none => T
    | some e => backtrack pred k e.src (e.tok :: T)

/-- The optimal parse (R151 to R154). -/
def optimalParse (S : Entry) (x' : List Byte) : List Token :=
  backtrack (dpArrays S x').pred x'.length x'.length []

/-! ## The greedy parser -/

/-- Of two candidates the greedy parser's choice: the longer, and of equal length the smaller displacement (R155). -/
def greedyPick (a b : Cand) : Cand :=
  if a.len < b.len ∨ (a.len = b.len ∧ b.disp < a.disp) then b else a

/-- The greedy parse from position `i`, in at most `k` tokens (R155). -/
def greedyFrom (S : Entry) (x' : List Byte) : Nat → Nat → List Token
  | 0, _ => []
  | k + 1, i =>
    if x'.length ≤ i then []
    else
      match candidates S x' i with
      | [] => .lit ((x'[i]?).getD 0#8) :: greedyFrom S x' k (i + 1)
      | c :: cs =>
        let m := cs.foldl greedyPick c
        .mat m.len m.disp :: greedyFrom S x' k (i + m.len)

/-- The greedy parse (R155). -/
def greedyParse (S : Entry) (x' : List Byte) : List Token := greedyFrom S x' x'.length 0

/-- `parse(x', S)` (R150): the scheme's parser. -/
def parseWith (S : Entry) (x' : List Byte) : List Token :=
  match S.parser with
  | .optimal => optimalParse S x'
  | .greedy => greedyParse S x'

/-- The arrays a parse holds while it runs (R41); the greedy parser has none. -/
def parseArrays (S : Entry) (x' : List Byte) : Option Dp :=
  match S.parser with
  | .optimal => some (dpArrays S x')
  | .greedy => none

/-! ## PARSE and the token records -/

/-- PARSE's checks and token sequence, up to its first OUT write (R160). -/
def openParse (reg : Registry) (framing : Bool) (s : State) : Except Stop State :=
  match commonChecks reg .parse framing s with
  | .error e => .error e
  | .ok S =>
    let T := parseWith S (oriented S s.input)
    if s.params.outCap < 8 * T.length then .error (.raise .capacityExceeded 0)
    else .ok { s with dp := parseArrays S (oriented S s.input), seq := T, enc := { s.enc with wrptr := 0#32 },
                      stage := .putTokens }

/-- A token's record written at WRPTR (R111, R160). -/
def putToken (t : Token) (s : State) : State := s.emit (encode (tokenRecord t))

/-- PARSE's records written one after the other. -/
def putTokens (ts : List Token) (s : State) : State := ts.foldl (fun u t => putToken t u) s

/-- PARSE's completion step (R222). -/
def finishParse (reg : Registry) (s : State) : State :=
  s.complete (8 * s.seq.length) s.seq.length (cost (reg s.cmd.scheme) s.seq)

/-- PARSE over a registry (R160, R217). -/
def parseOver (reg : Registry) (framing : Bool) (s : State) : Outcome :=
  settle s ((openParse reg framing s).map (fun t => finishParse reg (putTokens t.seq t)))

/-- PARSE: compute and expose the token sequence (R160); RSVD_PRESERVE is ignored. -/
def execParse (framing _preserve : Bool) (s : State) : Outcome := parseOver registry framing s

/-- ENCODE takes a literal record (R176): the record is well-formed, so its token joins the sequence. -/
def takeLit (v : Byte) (s : State) : Except Stop State := .ok { s with seq := s.seq ++ [.lit v] }

/-- ENCODE takes a match record (R176): within the limitations and `d ≤ pos + P`, else InvalidMatch at the record. -/
def takeMatch (reg : Registry) (l d : BitVec 16) (s : State) : Except Stop State :=
  if admits (reg s.cmd.scheme).lim l.toNat d.toNat = true
      ∧ d.toNat ≤ spans s.seq + (reg s.cmd.scheme).pre.length then
    .ok { s with seq := s.seq ++ [.mat l.toNat d.toNat] }
  else .error (.raise .invalidMatch (8 * s.seq.length))

/-- TOKREC_LIT as one internal instruction (R111): PARSE writes the record at WRPTR, ENCODE reads it. -/
def execTokrecLit (v : BitVec 8) (s : State) : Outcome :=
  if s.stage = .putTokens then .next (s.emit (litRecordBytes v)) else settle s (takeLit v s)

/-- TOKREC_MATCH as one internal instruction (R111): PARSE writes the record at WRPTR, ENCODE checks and reads it. -/
def execTokrecMatch (l d : BitVec 16) (s : State) : Outcome :=
  if s.stage = .putTokens then .next (s.emit (matchRecordBytes l d)) else settle s (takeMatch registry l d s)

end Sys2Proof.Machine
end

