-- ==== Sys2Proof/Machine/Lzss.lean ====
section
/-! DEFINITION. The LZSS/LZ10 serializer (43_lzss_codec.md section 1) with ENCODE, and the stream instructions the decoder
executes (section 2): HDR16, CTRLBYTE, LIT and MATCH. -/

namespace Sys2Proof.Machine

/-! ## Encoder -/

/-- Tokens in flag groups of 8, the last group perhaps shorter, no group empty (R172); at most `k` groups. -/
def groupsFrom : Nat → List Token → List (List Token)
  | 0, _ => []
  | _ + 1, [] => []
  | k + 1, t :: ts => (t :: ts).take 8 :: groupsFrom k ((t :: ts).drop 8)

/-- The flag groups of a token sequence (R172). -/
def groups (T : List Token) : List (List Token) := groupsFrom T.length T

/-- GROUP and GROUPN once the tags of a group's tokens are set (R173, R38): padding bits stay 0 (D17). -/
def EncRegs.setTags (e : EncRegs) (ts : List Token) : EncRegs :=
  ts.foldl (fun e t => { e with group := setTag e.group e.groupN (tokenTag t), groupN := e.groupN + 1 })
    { e with group := 0#8, groupN := 0 }

/-- One flag group written at WRPTR: its control byte, then each token's bytes in order (R172, R174). -/
def State.emitGroup (s : State) (ts : List Token) : State :=
  (s.setEnc (s.enc.setTags ts)).emit ((s.enc.setTags ts).group :: ts.flatMap tokenBytes)

/-- The control byte of a group as R173 gives it. -/
def controlByte (ts : List Token) : Byte :=
  (EncRegs.setTags { group := 0#8, groupN := 0, wrptr := 0#32 } ts).group

/-- The bytes of a flag group (R94, R172). -/
def groupBytes (ts : List Token) : List Byte := controlByte ts :: ts.flatMap tokenBytes

/-- The headerless payload of a token sequence (R172). -/
def payload (T : List Token) : List Byte := (groups T).flatMap groupBytes

/-- How many tokens are literals. -/
def literals : List Token → Nat
  | [] => 0
  | .lit _ :: ts => literals ts + 1
  | .mat _ _ :: ts => literals ts

/-- The stream length in bytes: `16 + ceil(k/8) + a + 2(k - a)` (R175), with FRAMING = 1 4 in place of 16 (R202). -/
def streamLength (framing : Bool) (T : List Token) : Nat :=
  (if framing then 4 else 16) + (T.length + 7) / 8 + literals T + 2 * (T.length - literals T)

/-- The 16-byte header written to OUT (R170): the tag, bytes 4..11 zero-filled or left as they were (R171), the size. -/
def putHeader16 (p : Params) (preserve : Bool) (n : Nat) (out : Memory) : Memory :=
  let tagged := out.writeBytes 0 (putLE32 p.containerTag)
  let filled := if preserve then tagged else tagged.writeBytes 4 (List.replicate 8 0#8)
  filled.writeBytes 12 (putLE32 (u32 n))

/-- The container's or the scheme's header, WRPTR behind it (R170, R200). -/
def State.putStreamHeader (s : State) (framing preserve : Bool) (n : Nat) (m : BitVec 3) : State :=
  if framing then (s.setEnc { s.enc with wrptr := 0#32 }).emit (putLE32 (methodWordOf (BitVec.ofNat 29 n) m))
  else (s.setOut (putHeader16 s.params preserve n s.outMem)).setEnc { s.enc with wrptr := 16#32 }

/-- The whole stream of a token sequence written to OUT (R170, R202). -/
def State.putStream (s : State) (framing preserve : Bool) (n : Nat) (m : BitVec 3) (T : List Token) : State :=
  (groups T).foldl State.emitGroup (s.putStreamHeader framing preserve n m)

/-- The method tag of the scheme, looked up with FRAMING = 1 only (R200). -/
def methodTag (framing : Bool) (p : Params) (id : BitVec 4) : Except Stop (BitVec 3) :=
  if framing then
    match leastMethod p id with
    | none => .error (.raise .unsupportedScheme 0)
    | some m => .ok (BitVec.ofNat 3 m)
  else .ok 0#3

/-- The largest size the stream's size field holds (R208). -/
def maxSize (framing : Bool) : Nat := if framing then 2 ^ 29 - 1 else 2 ^ 32 - 1

/-! ## ENCODE -/

/-- ENCODE's checks before its first record (R176, R244). -/
def openEncode (reg : Registry) (framing : Bool) (s : State) : Except Stop State :=
  match commonChecks reg .encode framing s with
  | .error e => .error e
  | .ok _ =>
    match methodTag framing s.params s.cmd.scheme with
    | .error e => .error e
    | .ok _ =>
      if s.cmd.n.toNat % 8 ≠ 0 then .error (.raise .malformedToken (s.cmd.n.toNat - s.cmd.n.toNat % 8))
      else .ok { s with seq := [], stage := .readRecords }

/-- The next record read, checked and taken (R176, R244: MalformedToken before InvalidMatch). -/
def readRecord (reg : Registry) (s : State) : Except Stop State :=
  match decode .record (s.recordWindow s.seq.length) with
  | .ok (.tokrecLit v, _) => takeLit v s
  | .ok (.tokrecMatch l d, _) => takeMatch reg l d s
  | .ok (_, _) => .error (.raise .malformedToken (8 * s.seq.length))
  | .error _ => .error (.raise .malformedToken (8 * s.seq.length))

/-- `k` records read in order (R176). -/
def readRecords (reg : Registry) : Nat → State → Except Stop State
  | 0, s => .ok s
  | k + 1, s =>
    match readRecord reg s with
    | .error e => .error e
    | .ok t => readRecords reg k t

/-- ENCODE once all records are read (R176): SizeOverflow, CapacityExceeded, the stream, the results (R223). -/
def finishEncode (framing preserve : Bool) (s : State) : Except Stop State :=
  match methodTag framing s.params s.cmd.scheme with
  | .error e => .error e
  | .ok m =>
    if maxSize framing < spans s.seq then .error (.raise .sizeOverflow 0)
    else if s.params.outCap < streamLength framing s.seq then .error (.raise .capacityExceeded 0)
    else
      .ok ((s.putStream framing preserve (spans s.seq) m s.seq).complete
        (streamLength framing s.seq) (spans s.seq) s.seq.length)

/-- ENCODE up to its last record, then its end (R176). -/
def encodeResult (reg : Registry) (framing preserve : Bool) (s : State) : Except Stop State :=
  match openEncode reg framing s with
  | .error e => .error e
  | .ok t =>
    match readRecords reg (s.cmd.n.toNat / 8) t with
    | .error e => .error e
    | .ok u => finishEncode framing preserve u

/-- ENCODE: serialize a token sequence given as records (R176). -/
def execEncode (framing preserve : Bool) (s : State) : Outcome := settle s (encodeResult registry framing preserve s)

/-! ## Decoder -/

/-- The start of the stream stage (R181). FLAGS is not set: it is loaded before its first use (R183). -/
def State.startStream (s : State) (start size : Word) : State :=
  { s with
    dec := { s.dec with rdptr := start, outpos := 0#32, size := size, bitsLeft := 0, toks := 0#32 }
    stage := .stream }

/-- HDR16: the header stage with FRAMING = 0 (R180). Bytes 4 to 11 are not read. -/
def execHdr16 (tag : BitVec 32) (_rsvd : BitVec 64) (size : BitVec 32) (s : State) : Outcome :=
  if s.cmd.n.toNat < 16 then .next (s.errorEntry .malformedHeader 0)
  else if tag ≠ s.params.containerTag then .next (s.errorEntry .malformedHeader 0)
  else if s.params.outCap < size.toNat then .next (s.errorEntry .capacityExceeded 12)
  else .next (s.startStream 16#32 size)

/-- CTRLBYTE: a control byte fetched (R181, R183); RDPTR moves past it (R37). -/
def execCtrlbyte (flags : BitVec 8) (s : State) : Outcome :=
  if s.cmd.n.toNat < s.dec.rdptr.toNat + 1 then .next (s.streamError .truncatedStream s.cmd.n.toNat)
  else .next (s.setDec { s.dec with rdptr := s.dec.rdptr + 1#32, flags := flags, bitsLeft := 8 })

/-- The decoder's registers after a token of `len` stream bytes that produced `out` output bytes (R37, R181). -/
def DecRegs.afterToken (d : DecRegs) (len out : Nat) : DecRegs :=
  { d.useTag with rdptr := d.rdptr + u32 len, outpos := d.outpos + u32 out, toks := d.toks + 1#32 }

/-- LIT: a literal token (R184). -/
def execLit (value : BitVec 8) (s : State) : Outcome :=
  if s.cmd.n.toNat < s.dec.rdptr.toNat + 1 then .next (s.streamError .truncatedStream s.cmd.n.toNat)
  else
    .next ((s.setOut (s.outMem.write s.dec.outpos.toNat value)).setDec (s.dec.afterToken 1 1))

/-- MATCH: a match token (R185): TruncatedStream before InvalidMatch before Overrun (R244), then the copy. -/
def execMatchTok (l d : Nat) (s : State) : Outcome :=
  if s.cmd.n.toNat < s.dec.rdptr.toNat + 2 then .next (s.streamError .truncatedStream s.cmd.n.toNat)
  else if s.dec.outpos.toNat + entryLz10.pre.length < d then .next (s.streamError .invalidMatch s.dec.rdptr.toNat)
  else if s.dec.size.toNat < s.dec.outpos.toNat + l then .next (s.streamError .overrun s.dec.rdptr.toNat)
  else
    .next ((s.setOut (copyMatch entryLz10.pre d l s.dec.outpos.toNat s.outMem)).setDec (s.dec.afterToken 2 l))

/-- The completion step of DECOMPRESS (R227). -/
def finishDecompress (s : State) : State :=
  s.complete s.dec.size.toNat s.dec.rdptr.toNat s.dec.toks.toNat

end Sys2Proof.Machine
end

