-- ==== Sys2Proof/Machine/Container.lean ====
section
/-! DEFINITION. The scheme-selection container (44_container.md): MWORD, and COMPRESS with both framings. -/

namespace Sys2Proof.Machine

/-- The raw body of scheme NONE copied (R204): RDPTR behind it, no token executed. That OUTPOS and SIZE are the size and
BITSLEFT is 0 until the completion step is DESIGN CHOICE, log entry 23: R204 gives RDPTR and TOKS alone. -/
def State.copyRaw (s : State) (size : Nat) : State :=
  { s with
    outMem := s.outMem.writeBytes 0 (s.inMem.readBytes 4 size)
    dec := { s.dec with rdptr := u32 (4 + size), outpos := u32 size, size := u32 size, bitsLeft := 0, toks := 0#32 }
    stage := .stream }

/-- MWORD once its scheme is known (R203, R204). R203 does not list the refusal of a BACKWARDS scheme (R179): that it
stands before CapacityExceeded is DESIGN CHOICE, log entry 25. -/
def enterMethod (S : Entry) (size : BitVec 29) (s : State) : Outcome :=
  if S.backwards = true then .refused .backwardsCodec
  else if s.params.outCap < size.toNat then .next (s.errorEntry .capacityExceeded 0)
  else if isNone S = true then
    if s.cmd.n.toNat - 4 < size.toNat then .next (s.errorEntry .malformedHeader 0)
    else .next (s.copyRaw size.toNat)
  else .next (s.startStream 4#32 (u32 size.toNat))

/-- MWORD over a registry (R203, R206). -/
def mwordOver (reg : Registry) (size : BitVec 29) (method : BitVec 3) (s : State) : Outcome :=
  if s.cmd.n.toNat < 4 then .next (s.errorEntry .malformedHeader 0)
  else
    match methodScheme s.params method with
    | none => .next (s.errorEntry .unsupportedScheme 0)
    | some id =>
      match checkEntry (reg id) with
      | .error e => settle s (.error e)
      | .ok S => enterMethod S size s

/-- MWORD: the header stage with FRAMING = 1 (R203). -/
def execMword (size : BitVec 29) (method : BitVec 3) (s : State) : Outcome := mwordOver registry size method s

/-- COMPRESS of scheme NONE (R201, R224). -/
def compressRaw (m : BitVec 3) (s : State) : Except Stop State :=
  if s.params.outCap < 4 + s.cmd.n.toNat then .error (.raise .capacityExceeded 0)
  else
    .ok (((s.putStreamHeader true false s.cmd.n.toNat m).emit s.input).complete (4 + s.cmd.n.toNat) 0 0)

/-- COMPRESS of a scheme with a parser (R224, R225). -/
def compressTokens (S : Entry) (framing preserve : Bool) (m : BitVec 3) (s : State) : Except Stop State :=
  let T := parseWith S s.input
  if s.params.outCap < streamLength framing T then .error (.raise .capacityExceeded 0)
  else
    .ok ((s.putStream framing preserve s.cmd.n.toNat m T).complete (streamLength framing T) T.length (cost S T))

/-- COMPRESS over a registry (R224). -/
def compressResult (reg : Registry) (framing preserve : Bool) (s : State) : Except Stop State :=
  match commonChecks reg .compress framing s with
  | .error e => .error e
  | .ok S =>
    match methodTag framing s.params s.cmd.scheme with
    | .error e => .error e
    | .ok m =>
      if maxSize framing < s.cmd.n.toNat then .error (.raise .sizeOverflow 0)
      else if isNone S = true then compressRaw m s
      else compressTokens S framing preserve m s

/-- COMPRESS: parse and serialize the input (R224). -/
def execCompress (framing preserve : Bool) (s : State) : Outcome :=
  settle s (compressResult registry framing preserve s)

end Sys2Proof.Machine
end

