-- ==== Sys2Proof/Machine/Fetch.lean ====
section
/-! DEFINITION. Where the engine finds its next instruction: the latched command, the stream at RDPTR, the records; the
loop of DECOMPRESS; and the opening of a command into its internal instructions. -/

namespace Sys2Proof.Machine

/-- What the engine meets when it looks for its next instruction: an instruction, or the end of the command. -/
inductive Fetched where
  | instr (i : Instr)
  | ended (o : Outcome)

/-- The latched command, read from its CTRL word (R110, R216); a reserved OP is IllegalCommand (R245). -/
def fetchCommand (s : State) : Fetched :=
  match decode .command (putLE32 (ctrlWord true s.cmd.op s.cmd.framing s.cmd.preserve)) with
  | .ok (i, _) => .instr i
  | .error _ => .ended (.next (s.errorEntry .illegalCommand 0))

/-- The header of the stream (R180, R203); too few bytes are MalformedHeader. -/
def fetchHeader (framing : Bool) (s : State) : Fetched :=
  match (if framing then decode .methodWord (s.headerWindow 4) else decode .header16 (s.headerWindow 16)) with
  | .ok (i, _) => .instr i
  | .error _ => .ended (.next (s.errorEntry .malformedHeader 0))

/-- The form of the stream's next bytes: a control byte when no tag is left, else the token its tag says (R181). -/
def DecRegs.nextForm (d : DecRegs) : Form :=
  if d.bitsLeft = 0 then .control else if d.tag then .matchPair else .literal

/-- The next stream instruction at RDPTR, while `OUTPOS < SIZE` (R181); a missing byte is TruncatedStream (R182). -/
def fetchStream (s : State) : Fetched :=
  if s.dec.size.toNat ≤ s.dec.outpos.toNat then .ended (.next (finishDecompress s))
  else
    match decode s.dec.nextForm (s.streamWindow 2) with
    | .ok (i, _) => .instr i
    | .error _ => .ended (.next (s.streamError .truncatedStream s.cmd.n.toNat))

/-- ENCODE's next token record (R176); after the last one, its end. -/
def fetchRecord (s : State) : Fetched :=
  if s.cmd.n.toNat ≤ 8 * s.seq.length then .ended (settle s (finishEncode s.cmd.framing s.cmd.preserve s))
  else
    match decode .record (s.recordWindow s.seq.length) with
    | .ok (i, _) => .instr i
    | .error _ => .ended (.next (s.errorEntry .malformedToken (8 * s.seq.length)))

/-- FIND's next candidate record (R130); after the last one, its end. -/
def fetchCand (s : State) : Fetched :=
  match s.cands[s.enc.wrptr.toNat / 4]? with
  | some c => .instr (candRecord c)
  | none => .ended (.next (finishFind s))

/-- PARSE's next token record (R160); after the last one, its end. -/
def fetchToken (s : State) : Fetched :=
  match s.seq[s.enc.wrptr.toNat / 8]? with
  | some t => .instr (tokenRecord t)
  | none => .ended (.next (finishParse registry s))

/-- The BUSY engine's next instruction by its stage. -/
def fetch (s : State) : Fetched :=
  match s.stage with
  | .command => fetchCommand s
  | .header => fetchHeader s.cmd.framing s
  | .stream => fetchStream s
  | .readRecords => fetchRecord s
  | .putCands => fetchCand s
  | .putTokens => fetchToken s

/-- The instructions inside a command, run by their own meanings. No command stands inside another. -/
def internalExec (i : Instr) (s : State) : Outcome :=
  match i with
  | .ctrlbyte f => execCtrlbyte f s
  | .lit v => execLit v s
  | .matchTok l d => execMatchTok l d s
  | .hdr16 t r z => execHdr16 t r z s
  | .mword z m => execMword z m s
  | .tokrecLit v => execTokrecLit v s
  | .tokrecMatch l d => execTokrecMatch l d s
  | .candrec l d => execCandrec l d s
  | .find _ _ => .fault .strayInstr
  | .price _ _ => .fault .strayInstr
  | .parse _ _ => .fault .strayInstr
  | .encode _ _ => .fault .strayInstr
  | .compress _ _ => .fault .strayInstr
  | .decompress _ _ => .fault .strayInstr

/-- One internal turn: the fetched instruction run, or the command ended. -/
def internalTurn (f : Fetched) (s : State) : Outcome :=
  match f with
  | .instr i => internalExec i s
  | .ended o => o

/-- The stream loop (R181) in at most `k` turns: every turn is a control byte, a token or the end. -/
def streamRun : Nat → State → Outcome
  | 0, s => if s.stage = .stream then .fault .turnBound else .next s
  | k + 1, s => if s.stage = .stream then andThen (internalTurn (fetchStream s) s) (streamRun k) else .next s

/-- Turns that suffice for the stream stage: each token writes a byte, each control byte precedes a token. -/
def streamBound (s : State) : Nat := 2 * s.dec.size.toNat + 1

/-- DECOMPRESS: the header stage, then the stream stage to its end (R226); RSVD_PRESERVE is ignored. -/
def execDecompress (framing _preserve : Bool) (s : State) : Outcome :=
  match commonChecks registry .decompress framing s with
  | .error e => settle s (.error e)
  | .ok _ =>
    andThen (internalTurn (fetchHeader framing (s.setStage .header)) (s.setStage .header))
      (fun t => streamRun (streamBound t) t)

/-- The engine's turn taken as the opening of its command (log entry 2): the checks before the command's first internal
instruction. PRICE and COMPRESS have none and run whole. -/
def openCommand (i : Instr) (s : State) : Outcome :=
  match i with
  | .find f _ => settle s (openFind registry f s)
  | .parse f _ => settle s (openParse registry f s)
  | .encode f _ => settle s (openEncode registry f s)
  | .decompress f _ => settle s ((commonChecks registry .decompress f s).map (fun _ => s.setStage .header))
  | .price f p => execPrice f p s
  | .compress f p => execCompress f p s
  | .ctrlbyte _ => .fault .strayInstr
  | .lit _ => .fault .strayInstr
  | .matchTok _ _ => .fault .strayInstr
  | .hdr16 _ _ _ => .fault .strayInstr
  | .mword _ _ => .fault .strayInstr
  | .tokrecLit _ => .fault .strayInstr
  | .tokrecMatch _ _ => .fault .strayInstr
  | .candrec _ _ => .fault .strayInstr

/-- The opening turn of the latched command. -/
def openTurn (s : State) : Outcome :=
  match fetchCommand s with
  | .instr i => openCommand i s
  | .ended o => o

end Sys2Proof.Machine
end

