-- ==== Sys2Proof/Machine/HostAccess.lean ====
section
/-! DEFINITION. What the host can do (20_memory.md section 3, 70_reset_and_hazards.md): CSR reads and writes, IN and OUT
accesses, and where it sees the three spaces. -/

namespace Sys2Proof.Machine

/-- The control and status registers (R25). -/
inductive Csr where
  | ctrl
  | status
  | scheme
  | inLen
  | findPos
  | priceLen
  | priceDisp
  | outLen
  | result0
  | result1
  | errOffset
  | limMinLen
  | limMaxLen
  | limMinDisp
  | limMaxDisp
  | limUnit
  | limPreLen
  | schemeAttr
  | tag
  deriving DecidableEq, Repr

/-- The register at a CSR offset; none at the reserved offsets 0x4C to 0xFC (R25). -/
def csrAt (off : Nat) : Option Csr :=
  [Csr.ctrl, .status, .scheme, .inLen, .findPos, .priceLen, .priceDisp, .outLen, .result0, .result1, .errOffset,
   .limMinLen, .limMaxLen, .limMinDisp, .limMaxDisp, .limUnit, .limPreLen, .schemeAttr, .tag][off / 4]?

/-- The offset of a register (R25). -/
def Csr.offset : Csr → Nat
  | .ctrl => 0x00
  | .status => 0x04
  | .scheme => 0x08
  | .inLen => 0x0C
  | .findPos => 0x10
  | .priceLen => 0x14
  | .priceDisp => 0x18
  | .outLen => 0x1C
  | .result0 => 0x20
  | .result1 => 0x24
  | .errOffset => 0x28
  | .limMinLen => 0x2C
  | .limMaxLen => 0x30
  | .limMinDisp => 0x34
  | .limMaxDisp => 0x38
  | .limUnit => 0x3C
  | .limPreLen => 0x40
  | .schemeAttr => 0x44
  | .tag => 0x48

/-- A limitation register: the field of the current entry when it has a finder, else 0 (R32). -/
def limitOf (S : Entry) (v : Nat) : Word := if S.hasFinder then u32 v else 0#32

/-- SCHEME_ATTR of an entry (R33). -/
def schemeAttrOf (S : Entry) : Word :=
  0#27 ++ BitVec.ofBool S.registered ++ BitVec.ofBool (S.registered && S.implemented) ++ BitVec.ofBool S.hasFinder
    ++ BitVec.ofBool (decide (S.parser = .greedy)) ++ BitVec.ofBool S.backwards

/-- What a CSR reads (R26 to R34); a read has no side effect (R66). -/
def csrRead (reg : Registry) (c : Csr) (s : State) : Word :=
  match c with
  | .ctrl => ctrlWord false s.ctrl.op s.ctrl.framing s.ctrl.preserve
  | .status => s.status.word
  | .scheme => 0#28 ++ s.opnd.scheme
  | .inLen => s.opnd.inLen
  | .findPos => s.opnd.findPos
  | .priceLen => s.opnd.priceLen
  | .priceDisp => s.opnd.priceDisp
  | .outLen => s.res.outLen
  | .result0 => s.res.result0
  | .result1 => s.res.result1
  | .errOffset => s.res.errOffset
  | .limMinLen => limitOf (reg s.opnd.scheme) (reg s.opnd.scheme).lim.minLength
  | .limMaxLen => limitOf (reg s.opnd.scheme) (reg s.opnd.scheme).lim.maxLength
  | .limMinDisp => limitOf (reg s.opnd.scheme) (reg s.opnd.scheme).lim.minDisplacement
  | .limMaxDisp => limitOf (reg s.opnd.scheme) (reg s.opnd.scheme).lim.maxDisplacement
  | .limUnit => limitOf (reg s.opnd.scheme) (reg s.opnd.scheme).lim.unitSize
  | .limPreLen => limitOf (reg s.opnd.scheme) (reg s.opnd.scheme).pre.length
  | .schemeAttr => schemeAttrOf (reg s.opnd.scheme)
  | .tag => s.params.containerTag

/-- A CTRL write while IDLE (R26, R110, R215): with START = 1 the command starts, else the fields are stored. -/
def writeCtrl (w : Word) (s : State) : State :=
  if ctrlStart w then s.acceptStart w
  else s.setCtrl { op := ctrlOp w, framing := ctrlFraming w, preserve := ctrlPreserve w }

/-- A CSR write (R66): no effect while BUSY (R281), none on a read-only register. -/
def csrWrite (c : Csr) (w : Word) (s : State) : State :=
  if s.status.busy then s
  else
    match c with
    | .ctrl => writeCtrl w s
    | .scheme => s.setOpnd { s.opnd with scheme := w.extractLsb' 0 4 }
    | .inLen => s.setOpnd { s.opnd with inLen := w }
    | .findPos => s.setOpnd { s.opnd with findPos := w }
    | .priceLen => s.setOpnd { s.opnd with priceLen := w }
    | .priceDisp => s.setOpnd { s.opnd with priceDisp := w }
    | .status => s
    | .outLen => s
    | .result0 => s
    | .result1 => s
    | .errOffset => s
    | .limMinLen => s
    | .limMaxLen => s
    | .limMinDisp => s
    | .limMaxDisp => s
    | .limUnit => s
    | .limPreLen => s
    | .schemeAttr => s
    | .tag => s

/-- The shape of a CSR access: 32 bits at a multiple of 4 (R66), inside the 256 bytes (R60). -/
def csrShape (a n : Nat) : Option Refusal :=
  if n ≠ 4 ∨ a % 4 ≠ 0 then some .csrAccessShape else if 256 ≤ a then some .hostOutOfRange else none

/-- A host read (R66, R67). While BUSY a read of OUT returns drawn bytes (R282, U8). -/
def hostLoad (sp : Space) (a n : Nat) (s : State) : Outcome :=
  match sp with
  | .csr =>
    match csrShape a n with
    | some r => .refused r
    | none =>
      match csrAt a with
      | some c => .next (s.setHostData (.word (csrRead registry c s)))
      | none => .next (s.setHostData (.word 0#32))
  | .inBuf =>
    if s.params.inCap < a + n then .refused .hostOutOfRange
    else .next (s.setHostData (.bytes (s.inMem.readBytes a n)))
  | .outBuf =>
    if s.params.outCap < a + n then .refused .hostOutOfRange
    else if s.status.busy then
      .next ((s.setHostData (.bytes ((List.range' a n).map (Config.freeByte s.draws)))).setDraws (s.draws + 1))
    else .next (s.setHostData (.bytes (s.outMem.readBytes a n)))

/-- A host write (R66, R67); to IN or OUT only while IDLE (R73, R280). While BUSY a write of no bytes is refused as any
other, and a write that also passes the capacity is refused as one while BUSY: DESIGN CHOICE, log entry 18. -/
def hostStore (sp : Space) (a : Nat) (bs : List Byte) (s : State) : Outcome :=
  match sp with
  | .csr =>
    match csrShape a bs.length with
    | some r => .refused r
    | none =>
      match csrAt a, bs with
      | some c, [b0, b1, b2, b3] => .next (csrWrite c (le32 b0 b1 b2 b3) s)
      | _, _ => .next s
  | .inBuf =>
    if s.status.busy then .refused .hostWriteWhileBusy
    else if s.params.inCap < a + bs.length then .refused .hostOutOfRange
    else .next (s.setIn (s.inMem.writeBytes a bs))
  | .outBuf =>
    if s.status.busy then .refused .hostWriteWhileBusy
    else if s.params.outCap < a + bs.length then .refused .hostOutOfRange
    else .next (s.setOut (s.outMem.writeBytes a bs))

/-- Which space and index a platform address falls in (R64). -/
def locate (p : Params) (addr : Nat) : Option (Space × Nat) :=
  if p.csrBase ≤ addr ∧ addr < p.csrBase + 256 then some (.csr, addr - p.csrBase)
  else if p.inBase ≤ addr ∧ addr < p.inBase + p.inCap then some (.inBuf, addr - p.inBase)
  else if p.outBase ≤ addr ∧ addr < p.outBase + p.outCap then some (.outBuf, addr - p.outBase)
  else none

/-- A host read at a platform address. -/
def hostLoadAt (addr n : Nat) (s : State) : Outcome :=
  match locate s.params addr with
  | some (sp, a) => hostLoad sp a n s
  | none => .refused .noSuchAddress

/-- A host write at a platform address. -/
def hostStoreAt (addr : Nat) (bs : List Byte) (s : State) : Outcome :=
  match locate s.params addr with
  | some (sp, a) => hostStore sp a bs s
  | none => .refused .noSuchAddress

/-- Reset (R270, R271): the reset state of the same instance, IN and OUT unspecified anew; a command in progress has no
completion step. What the outside does next is not the block's and stays. -/
def resetEvent (s : State) : State := State.resetWith s.params s.draws s.agenda

end Sys2Proof.Machine
end

