-- ==== Sys2Proof/Machine/Assembler.lean ====
section
/-! DEFINITION. The token assembly and the host assembly of 30_encoding.md section 7 (R113, R114, R115). -/

namespace Sys2Proof.Machine

/-- A statement of token assembly (R113, R114). -/
inductive TokStmt where
  /-- `.lz10 SIZE` -/
  | lz10 (size : Nat)
  /-- `.mword METHOD, SIZE` -/
  | mword (method size : Nat)
  /-- `LIT b` -/
  | lit (b : Byte)
  /-- `MATCH l, d` -/
  | mat (l d : Nat)
  /-- `RAW b, ...` -/
  | raw (bs : List Byte)
  /-- `LITS "s"` -/
  | lits (bs : List Byte)
  /-- `COPY l, d` -/
  | copy (l d : Nat)
  /-- `RUN b, n` -/
  | run (b : Byte) (n : Nat)
  deriving DecidableEq, Repr

/-- The match tokens of `COPY l, d` (R114), in at most `k` pieces before the last. -/
def copyPieces (d : Nat) : Nat → Nat → List Token
  | 0, l => [.mat l d]
  | k + 1, l =>
    if 18 < l then
      if 3 ≤ l - 18 then .mat 18 d :: copyPieces d k (l - 18) else .mat (l - 3) d :: copyPieces d k 3
    else [.mat l d]

/-- The expansion of `COPY l, d` (R114). -/
def expandCopy (l d : Nat) : List Token := copyPieces d l l

/-- The expansion of `RUN b, n` (R114). -/
def expandRun (b : Byte) (n : Nat) : List Token :=
  .lit b :: (if 3 ≤ n - 1 then expandCopy (n - 1) 1 else List.replicate (n - 1) (.lit b))

/-- The tokens a token statement stands for; none for a header or RAW, or where an operand is out of range (R113,
R114). -/
def stmtTokens : TokStmt → Option (List Token)
  | .lit b => some [.lit b]
  | .mat l d => if matchOperandsOk l d then some [.mat l d] else none
  | .lits bs => some (bs.map .lit)
  | .copy l d => if 3 ≤ l ∧ 1 ≤ d ∧ d ≤ 4096 then some (expandCopy l d) else none
  | .run b n => if 1 ≤ n then some (expandRun b n) else none
  | .lz10 _ => none
  | .mword _ _ => none
  | .raw _ => none

/-- The tokens of a body of token statements; none if a statement is no token statement or is out of range. -/
def bodyTokens : List TokStmt → Option (List Token)
  | [] => some []
  | t :: ts =>
    match stmtTokens t, bodyTokens ts with
    | some a, some b => some (a ++ b)
    | _, _ => none

/-- The bytes of a body of RAW statements; none if another statement stands there. -/
def bodyRaw : List TokStmt → Option (List Byte)
  | [] => some []
  | .raw bs :: ts => (bodyRaw ts).map (bs ++ ·)
  | _ :: _ => none

/-- METHOD selects scheme NONE, whose body alone may be RAW (R113, R99). -/
def rawBodyAllowed (p : Params) (method : Nat) : Bool :=
  match methodScheme p (BitVec.ofNat 3 method) with
  | some id => isNone (registry id)
  | none => false

/-- A body: tokens packed into flag groups, or raw bytes where RAW is allowed (R113). Token statements are accepted in
any body, and none is mixed with RAW: DESIGN CHOICE, log entry 22. -/
def assembleBody (rawAllowed : Bool) (ts : List TokStmt) : Option (List Byte) :=
  match bodyTokens ts with
  | some T => some (payload T)
  | none => if rawAllowed then bodyRaw ts else none

/-- The token assembler (R113): the header statement first, then the body, RAW in a NONE body only. DESIGN CHOICE, log
entry 22: a program without a header statement assembles to its bare headerless payload, and a size or a method out of
its field is an error. -/
def assemble (p : Params) : List TokStmt → Option (List Byte)
  | .lz10 size :: ts =>
    if size < 2 ^ 32 then
      (assembleBody false ts).map (encode (.hdr16 p.containerTag 0#64 (u32 size)) ++ ·)
    else none
  | .mword method size :: ts =>
    if method < 8 ∧ size < 2 ^ 29 then
      (assembleBody (rawBodyAllowed p method) ts).map
        (encode (.mword (BitVec.ofNat 29 size) (BitVec.ofNat 3 method)) ++ ·)
    else none
  | ts => assembleBody false ts

/-- A statement of host assembly (R115). -/
inductive HostStmt where
  | csrw (c : Csr) (v : Word)
  | inb (i : Nat) (bs : List Byte)
  | start (op : BitVec 4) (framing preserve : Bool)
  | wait
  deriving DecidableEq, Repr

/-- What a host statement makes the host do (R115). -/
def HostStmt.event : HostStmt → Event
  | .csrw c v => .store .csr c.offset (putLE32 v)
  | .inb i bs => .store .inBuf i bs
  | .start op f p => .store .csr 0 (putLE32 (ctrlWord true op f p))
  | .wait => .wait

end Sys2Proof.Machine
end

