-- ==== Sys2Proof/Machine/Dispatch.lean ====
section
/-! DEFINITION. exec: one arm per instruction, each one direct call of its meaning. -/

namespace Sys2Proof.Machine

def exec (i : Instr) (s : State) : Host.Outcome State Fault Refusal :=
  match i with
  -- the token stream (R3 (a))
  | .ctrlbyte f => Sys2Proof.Machine.execCtrlbyte f s
  | .lit v => Sys2Proof.Machine.execLit v s
  | .matchTok l d => Sys2Proof.Machine.execMatchTok l d s
  | .hdr16 t r z => Sys2Proof.Machine.execHdr16 t r z s
  | .mword z m => Sys2Proof.Machine.execMword z m s
  -- the commands (R3 (b))
  | .find f p => Sys2Proof.Machine.execFind f p s
  | .price f p => Sys2Proof.Machine.execPrice f p s
  | .parse f p => Sys2Proof.Machine.execParse f p s
  | .encode f p => Sys2Proof.Machine.execEncode f p s
  | .compress f p => Sys2Proof.Machine.execCompress f p s
  | .decompress f p => Sys2Proof.Machine.execDecompress f p s
  -- the records
  | .tokrecLit v => Sys2Proof.Machine.execTokrecLit v s
  | .tokrecMatch l d => Sys2Proof.Machine.execTokrecMatch l d s
  | .candrec l d => Sys2Proof.Machine.execCandrec l d s

end Sys2Proof.Machine
end

