-- ==== Sys2Proof/Machine/Step.lean ====
section
/-! DEFINITION. The step: the outside's next event while one is due, else the engine's turn (R20, R21, R285). -/

namespace Sys2Proof.Machine

/-- The BUSY engine's turn: the instruction it fetches, run; or the end of its command (R21, R181). -/
def engineTurn (s : State) : Host.Outcome State Fault Refusal :=
  match fetch s with
  | .instr i => exec i s
  | .ended o => o

/-- The engine's turn if it is BUSY; in IDLE it takes no step (R21). -/
def engineOrIdle (s : State) : Host.Outcome State Fault Refusal :=
  if s.status.busy then engineTurn s else .next s

/-- WAIT (R115): while BUSY the engine moves and the wait stays; then the read of STATUS that sees BUSY = 0. -/
def waitEvent (rest : List Event) (s : State) : Host.Outcome State Fault Refusal :=
  if s.status.busy then engineTurn s
  else .next ((s.setAgenda rest).setHostData (.word s.status.word))

/-- The engine's turn at the internal grain: the command opened if it is due as a whole, else its next internal
instruction (log entry 2). -/
def internalEvent (s : State) : Host.Outcome State Fault Refusal :=
  if s.status.busy && decide (s.stage = .command) then openTurn s else engineOrIdle s

/-- One event of the outside, taken off the agenda (WAIT stays until the engine is IDLE). -/
def eventStep (ev : Event) (rest : List Event) (s : State) : Host.Outcome State Fault Refusal :=
  match ev with
  | .load sp a n => hostLoad sp a n (s.setAgenda rest)
  | .store sp a bs => hostStore sp a bs (s.setAgenda rest)
  | .loadAt addr n => hostLoadAt addr n (s.setAgenda rest)
  | .storeAt addr bs => hostStoreAt addr bs (s.setAgenda rest)
  | .wait => waitEvent rest s
  | .engine => engineOrIdle (s.setAgenda rest)
  | .internal => internalEvent (s.setAgenda rest)
  | .reset => .next (resetEvent (s.setAgenda rest))

/-- One step of KLZ and its host. -/
def step (s : State) : Host.Outcome State Fault Refusal :=
  match s.agenda with
  | ev :: rest => eventStep ev rest s
  | [] => engineOrIdle s

/-- A command of `op` started with `bytes` as its whole input at IN[0..). -/
def State.withInput (s : State) (op : BitVec 4) (framing : Bool) (bytes : List Byte) : State :=
  let t := s.acceptStart (ctrlWord true op framing false)
  { t with
    inMem := s.inMem.writeBytes 0 bytes
    cmd := { t.cmd with n := u32 bytes.length } }

/-- `s` with an instruction of the given form and bytes where the engine fetches its next one, and nothing due before
it (log entry 14): a command latched as a START latches it, any other form as the input of a command that is about to
read it. -/
def State.withForm (s : State) (f : Form) (bytes : List Byte) : State :=
  match f with
  | .command =>
    match bytes with
    | b0 :: b1 :: b2 :: b3 :: _ => s.acceptStart (le32 b0 b1 b2 b3)
    | _ => s
  | .header16 => (s.withInput opDecompress false bytes).setStage .header
  | .methodWord => (s.withInput opDecompress true bytes).setStage .header
  | .control => (s.withInput opDecompress false bytes).startStream 0#32 1#32
  | .literal =>
    let t := (s.withInput opDecompress false bytes).startStream 0#32 1#32
    t.setDec { t.dec with flags := 0#8, bitsLeft := 8 }
  | .matchPair =>
    let t := (s.withInput opDecompress false bytes).startStream 0#32 1#32
    t.setDec { t.dec with flags := 0x80#8, bitsLeft := 8 }
  | .record => { (s.withInput opEncode false bytes) with seq := [], stage := .readRecords }
  | .candidate => s

/-- `s` with the instruction whose bits are `w` stored where the next step fetches it. -/
def State.withFetchWord (s : State) (nbits w : Nat) : State :=
  (s.setAgenda []).withForm (tableForm nbits w).1 (tableForm nbits w).2

end Sys2Proof.Machine
end

