-- ==== Sys2Proof/Safety.lean ====
section
/-! DEFINITION. What counts as a legal state and a safe run, and the terms the statements use: frames, the ends of a
command, legal token sequences, what they replay to, and the stream they stand for. -/

namespace Sys2Proof.Machine

/-! ## Legal states -/

/-- DONE and ERR are never both 1, BUSY excludes both, ERRCODE is 0 unless ERR and then one of 1 to 9 (R27, R241). -/
def Status.legal (st : Status) : Bool :=
  !(st.done && st.err) && (!st.busy || (!st.done && !st.err))
    && (if st.err then decide (1 ≤ st.errCode.toNat) && decide (st.errCode.toNat ≤ 9) else decide (st.errCode = 0#4))

/-- Both memories are in canonical form and hold cells below their capacity only (R60, R246). -/
def State.memoryLegal (s : State) : Bool :=
  s.inMem.wf && s.outMem.wf && s.inMem.below s.params.inCap && s.outMem.below s.params.outCap

/-- What holds while the engine is in a stage (R62, R181, R182, R246). -/
def State.stageLegal (s : State) : Bool :=
  match s.stage with
  | .command => decide (s.dp = none) && decide (s.cands = []) && decide (s.seq = [])
  | .header => decide (s.cmd.op = opDecompress) && decide (s.cmd.n.toNat ≤ s.params.inCap)
  | .stream =>
    decide (s.cmd.op = opDecompress) && decide (s.cmd.n.toNat ≤ s.params.inCap)
      && decide (s.dec.rdptr.toNat ≤ s.cmd.n.toNat) && decide (s.dec.outpos.toNat ≤ s.dec.size.toNat)
      && decide (s.dec.size.toNat ≤ s.params.outCap)
  | .readRecords =>
    decide (s.cmd.op = opEncode) && decide (s.cmd.n.toNat ≤ s.params.inCap) && decide (s.cmd.n.toNat % 8 = 0)
      && decide (8 * s.seq.length ≤ s.cmd.n.toNat)
  | .putCands =>
    decide (s.cmd.op = opFind) && decide (4 * s.cands.length ≤ s.params.outCap)
      && decide (s.enc.wrptr.toNat % 4 = 0) && decide (s.enc.wrptr.toNat ≤ 4 * s.cands.length)
  | .putTokens =>
    decide (s.cmd.op = opParse) && decide (8 * s.seq.length ≤ s.params.outCap)
      && decide (s.enc.wrptr.toNat % 8 = 0) && decide (s.enc.wrptr.toNat ≤ 8 * s.seq.length)

/-- The engine: IDLE only between commands (R21), at most 8 tags left and 8 tokens in a group (R36, R38). -/
def State.engineLegal (s : State) : Bool :=
  (s.status.busy || decide (s.stage = .command)) && decide (s.dec.bitsLeft ≤ 8) && decide (s.enc.groupN ≤ 8)
    && s.stageLegal

/-- The invariant of KLZ. -/
def State.Inv (s : State) : Prop :=
  s.params.wf = true ∧ s.status.legal = true ∧ s.memoryLegal = true ∧ s.engineLegal = true

/-! ## Frames and ends -/

/-- What no instruction changes: parameters, the host's registers, the latched operands, IN, and the outside's side. -/
structure Keeps (s t : State) : Prop where
  params   : t.params = s.params
  ctrl     : t.ctrl = s.ctrl
  opnd     : t.opnd = s.opnd
  cmd      : t.cmd = s.cmd
  inMem    : t.inMem = s.inMem
  agenda   : t.agenda = s.agenda
  hostData : t.hostData = s.hostData

/-- Candidate set, token sequence, best and pred do not survive the command (R219); the next command runs from its
start. -/
structure Released (t : State) : Prop where
  dp    : t.dp = none
  cands : t.cands = []
  seq   : t.seq = []
  stage : t.stage = .command

/-- The working registers do not survive the command either (R219): each holds the free value of the draw at which `s`
stands, whatever it held in `s`, and that draw is used up (log entry 7). -/
structure WorkReleased (s t : State) : Prop where
  dec   : t.dec = releasedDec s.draws
  enc   : t.enc = releasedEnc s.draws
  draws : t.draws = s.draws + 1

/-- The command ended without error (R219, R31). -/
structure EndsDone (t : State) (outLen result0 result1 : Nat) : Prop where
  status    : t.status = { busy := false, done := true, err := false, errCode := 0#4 }
  outLen    : t.res.outLen = u32 outLen
  result0   : t.res.result0 = u32 result0
  result1   : t.res.result1 = u32 result1
  errOffset : t.res.errOffset = 0#32
  released  : Released t

/-- The command ended with an error (R250, R252). -/
structure EndsWith (t : State) (e : ErrCode) (off : Nat) : Prop where
  status    : t.status = { busy := false, done := false, err := true, errCode := e.code }
  outLen    : t.res.outLen = 0#32
  result0   : t.res.result0 = 0#32
  result1   : t.res.result1 = 0#32
  errOffset : t.res.errOffset = u32 off
  released  : Released t

/-- Every byte of OUT reads as before. -/
def SameOut (s t : State) : Prop := ∀ a, t.outMem.read a = s.outMem.read a

/-- Every byte of OUT outside `[lo, hi)` reads as before. -/
def SameOutOutside (lo hi : Nat) (s t : State) : Prop := ∀ a, a < lo ∨ hi ≤ a → t.outMem.read a = s.outMem.read a

/-- OUT holds the bytes from index `lo` on. -/
def OutHolds (t : State) (lo : Nat) (bs : List Byte) : Prop :=
  ∀ k, k < bs.length → bs[k]? = some (t.outMem.read (lo + k))

/-- Error entry from `s` (R250, R253): precise, OUT as it was (R251). -/
structure ErrorEntered (s t : State) (e : ErrCode) (off : Nat) : Prop where
  ends  : EndsWith t e off
  keeps : Keeps s t
  out   : SameOut s t

/-- Error entry from the stream stage (R250, R251): OUT is unchanged from SIZE on; nothing is said of the bytes below
it. -/
structure StreamErrorEntered (s t : State) (e : ErrCode) (off : Nat) : Prop where
  ends  : EndsWith t e off
  keeps : Keeps s t
  out   : ∀ a, s.dec.size.toNat ≤ a → t.outMem.read a = s.outMem.read a

/-- The decompressed size that the stream in IN declares (R97, R98): bytes 12 to 15, or the method word's bits 31:3. -/
def declaredSize (s : State) (framing : Bool) : Nat :=
  if framing then
    (le32 (s.inMem.read 0) (s.inMem.read 1) (s.inMem.read 2) (s.inMem.read 3)).toNat / 8
  else (le32 (s.inMem.read 12) (s.inMem.read 13) (s.inMem.read 14) (s.inMem.read 15)).toNat

/-- It is the engine's turn in `s`, and the state it moves from is `u` (R21, R115, R285): with nothing due; on the event
engine; while a WAIT stands; on the event internal inside an opened command (log entries 1 and 2). -/
inductive EngineTurn (s : State) : State → Prop
  | nothingDue (h : s.agenda = []) : EngineTurn s s
  | engine (rest : List Event) (h : s.agenda = .engine :: rest) : EngineTurn s (s.setAgenda rest)
  | wait (rest : List Event) (h : s.agenda = .wait :: rest) : EngineTurn s s
  | internal (rest : List Event) (h : s.agenda = .internal :: rest) (opened : s.stage ≠ .command) :
    EngineTurn s (s.setAgenda rest)

/-- A command of the CTRL level. -/
def isCommand : Instr → Bool
  | .find _ _ => true
  | .price _ _ => true
  | .parse _ _ => true
  | .encode _ _ => true
  | .compress _ _ => true
  | .decompress _ _ => true
  | .ctrlbyte _ => false
  | .lit _ => false
  | .matchTok _ _ => false
  | .hdr16 _ _ _ => false
  | .mword _ _ => false
  | .tokrecLit _ => false
  | .tokrecMatch _ _ => false
  | .candrec _ _ => false

/-! ## Token sequences -/

/-- The covering invariant with validity (R150, R156): from position `i` the tokens lie end to end up to the end of the
oriented input, each literal is its own byte and each match a candidate of its position. -/
def Covers (S : Entry) (x' : List Byte) : Nat → List Token → Prop
  | i, [] => i = x'.length
  | i, .lit b :: ts => x'[i]? = some b ∧ Covers S x' (i + 1) ts
  | i, .mat l d :: ts => IsCandidate S x' i l d ∧ Covers S x' (i + l) ts

/-- The encoder's input contract for LZ10 from output position `pos` (R175): field ranges, and no match reaches before
the history. -/
def legalTokens : Nat → List Token → Bool
  | _, [] => true
  | pos, .lit _ :: ts => legalTokens (pos + 1) ts
  | pos, .mat l d :: ts => matchOperandsOk l d && decide (d ≤ pos) && legalTokens (pos + l) ts

/-- Copying one byte `l` times from `d` behind the end of what is there (R72, R185). -/
def replayMatch (d : Nat) : Nat → List Byte → List Byte
  | 0, acc => acc
  | l + 1, acc => replayMatch d l (acc ++ [(acc[acc.length - d]?).getD 0#8])

/-- The bytes a token sequence stands for, behind those already produced (R131, R188). -/
def replay : List Byte → List Token → List Byte
  | acc, [] => acc
  | acc, .lit b :: ts => replay (acc ++ [b]) ts
  | acc, .mat l d :: ts => replay (replayMatch d l acc) ts

/-- The header bytes of an encoded stream, bytes 4..11 zero (R97, R98). -/
def headerBytes (p : Params) (framing : Bool) (n : Nat) (m : BitVec 3) : List Byte :=
  if framing then encode (.mword (BitVec.ofNat 29 n) m) else encode (.hdr16 p.containerTag 0#64 (u32 n))

/-- The stream of a token sequence is in OUT (R170, R171, R202): header and payload, the reserved bytes only where they
are zero-filled. -/
def OutHoldsStream (t : State) (framing preserve : Bool) (n : Nat) (m : BitVec 3) (T : List Token) : Prop :=
  ∀ k, k < streamLength framing T → ¬ (framing = false ∧ preserve = true ∧ 4 ≤ k ∧ k < 12) →
    (headerBytes t.params framing n m ++ payload T)[k]? = some (t.outMem.read k)

/-- The reserved header bytes are as they were where they are preserved (R171). -/
def ReservedKept (s t : State) (framing preserve : Bool) : Prop :=
  framing = false → preserve = true → ∀ k, 4 ≤ k → k < 12 → t.outMem.read k = s.outMem.read k

/-- The method tag an encoder uses for a scheme (R200): none needed with FRAMING = 0, else the least that maps to it. -/
def UsesMethod (p : Params) (framing : Bool) (id : BitVec 4) (m : BitVec 3) : Prop :=
  if framing = true then
    methodScheme p m = some id ∧ ∀ k : BitVec 3, methodScheme p k = some id → m.toNat ≤ k.toNat
  else m = 0#3

/-- Bytes stand in IN from index `lo` on. -/
def InHolds (s : State) (lo : Nat) (bs : List Byte) : Prop :=
  ∀ k, k < bs.length → bs[k]? = some (s.inMem.read (lo + k))

end Sys2Proof.Machine
end

