-- ==== Sys2Proof/Certificates/Slice0/Obligations.lean ====
section
/-! DEFINITION. The statements of this row: what an instruction and the machine do, rule by rule. Three things a
statement may say are the model's choices and no rule: which free values the working registers hold once a command is
over (log entry 7); what the model's own fields stage, agenda, draws and hostData hold (log entries 1, 2, 4); and that a
stream or record instruction is a step of its own (log entry 2). -/

open Sys2Proof Sys2Proof.Machine

/-! ## Encodings (30_encoding.md) -/

/-- R90 to R93, R97, R98, R110 to R112: decoding the encoding of any well-formed instruction, in its own form and with
any bytes behind it, gives back the instruction with every operand, and those bytes. -/
def Obligations.DecodeOfEncodeGivesBack : Prop :=
  ∀ (i : Instr) (rest : List Byte), i.wellFormed = true → decode i.form (encode i ++ rest) = .ok (i, rest)

/-- What the decoder answers is well-formed, of the form asked for, and (but for a CTRL word, whose bits 31:7 are
ignored) encodes to exactly the bytes it was read from (R95, R100, R110). -/
def Obligations.DecodedBytesReencode : Prop :=
  ∀ (f : Form) (bs rest : List Byte) (i : Instr), decode f bs = .ok (i, rest) →
    i.wellFormed = true ∧ i.form = f ∧ (f ≠ .command → bs = encode i ++ rest)

/-- R93: the operand assembly of a match token and its inverse, in the rule's own arithmetic. -/
def Obligations.MatchOperandAssembly : Prop :=
  (∀ (b0 b1 : Byte) (rest : List Byte),
    decode .matchPair (b0 :: b1 :: rest) =
      .ok (.matchTok ((b0.toNat >>> 4) + 3) ((((b0.toNat &&& 0x0F) <<< 8) ||| b1.toNat) + 1), rest)) ∧
  (∀ l d : Nat, 3 ≤ l → l ≤ 18 → 1 ≤ d → d ≤ 4096 →
    encode (.matchTok l d) =
      [BitVec.ofNat 8 (((l - 3) <<< 4) ||| ((d - 1) >>> 8)), BitVec.ofNat 8 ((d - 1) &&& 0xFF)])

/-- Words written out from the spec's encodings decode to what they stand for (R110 table, W5, W6, R111, vector F1). -/
def Obligations.WrittenOutWordsDecode : Prop :=
  decode .command [0x0B#8, 0#8, 0#8, 0#8] = .ok (.compress false false, []) ∧
  decode .command [0x6D#8, 0#8, 0#8, 0#8] = .ok (.decompress true true, []) ∧
  decode .matchPair [0xFF#8, 0xFF#8] = .ok (.matchTok 18 4096, []) ∧
  decode .matchPair [0x80#8, 0x00#8] = .ok (.matchTok 11 1, []) ∧
  decode .methodWord [0x61#8, 0#8, 0#8, 0#8] = .ok (.mword 12#29 1#3, []) ∧
  decode .record [1#8, 0#8, 0#8, 0#8, 3#8, 0#8, 3#8, 0#8] = .ok (.tokrecMatch 3#16 3#16, []) ∧
  decode .candidate [3#8, 0#8, 3#8, 0#8] = .ok (.candrec 3#16 3#16, [])

/-! ## The token stream (43_lzss_codec.md section 2) -/

/-- CTRLBYTE (R181, R183, R37): loads FLAGS and eight tags, moves RDPTR by 1, changes nothing else; a missing byte is
TruncatedStream (R182). -/
def Obligations.CtrlbyteLoadsEightTags : Prop :=
  ∀ (f : Byte) (s : State),
    (s.dec.rdptr.toNat < s.cmd.n.toNat → ∃ t, exec (.ctrlbyte f) s = .next t ∧
      t.dec.rdptr.toNat = s.dec.rdptr.toNat + 1 ∧ t.dec.flags = f ∧ t.dec.bitsLeft = 8 ∧
      t.dec.outpos = s.dec.outpos ∧ t.dec.size = s.dec.size ∧ t.dec.toks = s.dec.toks ∧ t = s.setDec t.dec) ∧
    (s.cmd.n.toNat ≤ s.dec.rdptr.toNat → ∃ t, exec (.ctrlbyte f) s = .next t ∧
      StreamErrorEntered s t .truncatedStream s.cmd.n.toNat)

/-- LIT (R184): the byte is written at OUTPOS, OUTPOS and RDPTR move by 1, one tag and one token are counted; nothing
else changes. It raises TruncatedStream only. In the stream stage the byte is the one at RDPTR in IN. That a token is a
step of its own, and the stage, are the model's (log entry 2); what the working registers hold after an error is log entry
7's and not stated here. -/
def Obligations.LiteralWritesOneByte : Prop :=
  ∀ (b : Byte) (s : State),
    (s.dec.rdptr.toNat < s.cmd.n.toNat → ∃ t, exec (.lit b) s = .next t ∧
      t.outMem.read s.dec.outpos.toNat = b ∧
      (∀ a, a ≠ s.dec.outpos.toNat → t.outMem.read a = s.outMem.read a) ∧
      t.dec.outpos = s.dec.outpos + 1#32 ∧ t.dec.rdptr.toNat = s.dec.rdptr.toNat + 1 ∧
      t.dec.flags = s.dec.flags <<< 1 ∧ t.dec.bitsLeft = s.dec.bitsLeft - 1 ∧ t.dec.toks = s.dec.toks + 1#32 ∧
      t.dec.size = s.dec.size ∧ t = (s.setOut t.outMem).setDec t.dec) ∧
    (s.cmd.n.toNat ≤ s.dec.rdptr.toNat → ∃ t, exec (.lit b) s = .next t ∧
      StreamErrorEntered s t .truncatedStream s.cmd.n.toNat) ∧
    (∀ u, EngineTurn s u → s.status.busy = true → s.stage = .stream → s.dec.outpos.toNat < s.dec.size.toNat →
      s.dec.bitsLeft ≠ 0 → s.dec.flags.getLsbD 7 = false →
      step s = exec (.lit (s.inMem.read s.dec.rdptr.toNat)) u)

/-- MATCH (R185, R187, R283): a match inside the history and inside the declared size writes `l` bytes at OUTPOS, byte
`k` being the byte `d` behind it after the earlier ones are written, that is the last `d` bytes of the history repeated;
no other byte of OUT changes, RDPTR moves by 2, OUTPOS by `l`. -/
def Obligations.MatchRepeatsTheHistory : Prop :=
  ∀ (l d : Nat) (s : State), s.dec.rdptr.toNat + 2 ≤ s.cmd.n.toNat → 1 ≤ d → d ≤ s.dec.outpos.toNat →
    s.dec.outpos.toNat + l ≤ s.dec.size.toNat → ∃ t, exec (.matchTok l d) s = .next t ∧
      (∀ k, k < l → t.outMem.read (s.dec.outpos.toNat + k) = t.outMem.read (s.dec.outpos.toNat + k - d)) ∧
      (∀ k, k < l → t.outMem.read (s.dec.outpos.toNat + k) = s.outMem.read (s.dec.outpos.toNat - d + k % d)) ∧
      SameOutOutside s.dec.outpos.toNat (s.dec.outpos.toNat + l) s t ∧
      t.dec.outpos.toNat = s.dec.outpos.toNat + l ∧ t.dec.rdptr.toNat = s.dec.rdptr.toNat + 2 ∧
      t.dec.flags = s.dec.flags <<< 1 ∧ t.dec.bitsLeft = s.dec.bitsLeft - 1 ∧ t.dec.toks = s.dec.toks + 1#32 ∧
      t.dec.size = s.dec.size ∧ t = (s.setOut t.outMem).setDec t.dec

/-- The errors of MATCH (R185, R244, R252): TruncatedStream before InvalidMatch before Overrun, the last two at the
token's first byte. -/
def Obligations.MatchErrorsInOrder : Prop :=
  ∀ (l d : Nat) (s : State),
    (s.cmd.n.toNat < s.dec.rdptr.toNat + 2 → ∃ t, exec (.matchTok l d) s = .next t ∧
      StreamErrorEntered s t .truncatedStream s.cmd.n.toNat) ∧
    (s.dec.rdptr.toNat + 2 ≤ s.cmd.n.toNat → s.dec.outpos.toNat < d → ∃ t, exec (.matchTok l d) s = .next t ∧
      StreamErrorEntered s t .invalidMatch s.dec.rdptr.toNat) ∧
    (s.dec.rdptr.toNat + 2 ≤ s.cmd.n.toNat → d ≤ s.dec.outpos.toNat →
      s.dec.size.toNat < s.dec.outpos.toNat + l → ∃ t, exec (.matchTok l d) s = .next t ∧
      StreamErrorEntered s t .overrun s.dec.rdptr.toNat)

/-- The loop of the stream stage (R181 to R183, R93), at whichever event the engine has its turn: while `OUTPOS < SIZE`
the next instruction is a control byte if no tag is left, else the token that the tag in bit 7 of FLAGS says, read from
IN at RDPTR; at `OUTPOS = SIZE` DECOMPRESS completes (R227) and reads nothing more. One step per token, and the events,
are log entries 2 and 1. -/
def Obligations.StreamStageFetchesInOrder : Prop :=
  ∀ s u : State, EngineTurn s u → s.status.busy = true → s.stage = .stream →
    (s.dec.outpos.toNat < s.dec.size.toNat →
      step s = exec
        (if s.dec.bitsLeft = 0 then .ctrlbyte (s.inMem.read s.dec.rdptr.toNat)
        else if s.dec.flags.getLsbD 7 = true then
          .matchTok (((s.inMem.read s.dec.rdptr.toNat).toNat >>> 4) + 3)
            (((((s.inMem.read s.dec.rdptr.toNat).toNat &&& 0x0F) <<< 8)
              ||| (s.inMem.read (s.dec.rdptr.toNat + 1)).toNat) + 1)
        else .lit (s.inMem.read s.dec.rdptr.toNat)) u) ∧
    (s.dec.size.toNat ≤ s.dec.outpos.toNat → ∃ t, step s = .next t ∧
      EndsDone t s.dec.size.toNat s.dec.rdptr.toNat s.dec.toks.toNat ∧ SameOut u t ∧ Keeps u t)

/-- HDR16 (R180): too short and wrong tag are MalformedHeader, a size above OUT_CAP is CapacityExceeded at 12, else the
stream stage starts at RDPTR 16; bytes 4 to 11 play no part, and OUT is not touched. -/
def Obligations.HeaderStageOfLz10 : Prop :=
  ∀ (tag : BitVec 32) (rsvd : BitVec 64) (size : BitVec 32) (s : State),
    (s.cmd.n.toNat < 16 → ∃ t, exec (.hdr16 tag rsvd size) s = .next t ∧ ErrorEntered s t .malformedHeader 0) ∧
    (16 ≤ s.cmd.n.toNat → tag ≠ s.params.containerTag → ∃ t, exec (.hdr16 tag rsvd size) s = .next t ∧
      ErrorEntered s t .malformedHeader 0) ∧
    (16 ≤ s.cmd.n.toNat → tag = s.params.containerTag → s.params.outCap < size.toNat →
      ∃ t, exec (.hdr16 tag rsvd size) s = .next t ∧ ErrorEntered s t .capacityExceeded 12) ∧
    (16 ≤ s.cmd.n.toNat → tag = s.params.containerTag → size.toNat ≤ s.params.outCap →
      ∃ t, exec (.hdr16 tag rsvd size) s = .next t ∧ t.dec.rdptr = 16#32 ∧ t.dec.size = size ∧
        t.dec.outpos = 0#32 ∧ t.dec.bitsLeft = 0 ∧ t.dec.toks = 0#32 ∧ t.dec.flags = s.dec.flags ∧
        t = (s.setDec t.dec).setStage .stream)

/-- MWORD (R203, R204, R206) for a tag that METHOD_MAP maps: to none, UnsupportedScheme; to HUFF4, HUFF8 or RLE, a
refusal; to LZ10, the stream stage from RDPTR 4; to NONE, the raw copy; and the errors of each in the rules' order. A
tag mapped to an unregistered id is the model's choice (log entry 9), and so are OUTPOS, SIZE and FLAGS behind a raw copy
(log entry 23). -/
def Obligations.MethodWordSelectsTheScheme : Prop :=
  ∀ (size : BitVec 29) (m : BitVec 3) (s : State),
    (s.cmd.n.toNat < 4 → ∃ t, exec (.mword size m) s = .next t ∧ ErrorEntered s t .malformedHeader 0) ∧
    (4 ≤ s.cmd.n.toNat →
      (methodScheme s.params m = none → ∃ t, exec (.mword size m) s = .next t ∧
        ErrorEntered s t .unsupportedScheme 0) ∧
      (∀ id, methodScheme s.params m = some id → 5 ≤ id.toNat → ∃ t, exec (.mword size m) s = .next t ∧
        ErrorEntered s t .unsupportedScheme 0) ∧
      (∀ id, methodScheme s.params m = some id → 2 ≤ id.toNat → id.toNat ≤ 4 →
        exec (.mword size m) s = .refused .schemeNotInSource) ∧
      (∀ id, methodScheme s.params m = some id → id.toNat ≤ 1 → s.params.outCap < size.toNat →
        ∃ t, exec (.mword size m) s = .next t ∧ ErrorEntered s t .capacityExceeded 0) ∧
      (methodScheme s.params m = some 1#4 → size.toNat ≤ s.params.outCap →
        ∃ t, exec (.mword size m) s = .next t ∧ t.dec.rdptr = 4#32 ∧ t.dec.size.toNat = size.toNat ∧
          t.dec.outpos = 0#32 ∧ t.dec.bitsLeft = 0 ∧ t.dec.toks = 0#32 ∧ t.dec.flags = s.dec.flags ∧
          t = (s.setDec t.dec).setStage .stream) ∧
      (methodScheme s.params m = some 0#4 → size.toNat ≤ s.params.outCap → s.cmd.n.toNat - 4 < size.toNat →
        ∃ t, exec (.mword size m) s = .next t ∧ ErrorEntered s t .malformedHeader 0) ∧
      (methodScheme s.params m = some 0#4 → size.toNat ≤ s.params.outCap → size.toNat ≤ s.cmd.n.toNat - 4 →
        ∃ t, exec (.mword size m) s = .next t ∧
          (∀ k, k < size.toNat → t.outMem.read k = s.inMem.read (4 + k)) ∧ SameOutOutside 0 size.toNat s t ∧
          t.dec.rdptr.toNat = 4 + size.toNat ∧ t.dec.outpos.toNat = size.toNat ∧ t.dec.size.toNat = size.toNat ∧
          t.dec.toks = 0#32 ∧ t.dec.flags = s.dec.flags ∧
          t = ((s.setOut t.outMem).setDec t.dec).setStage .stream))

/-! ## Match finder (40_match_finder.md) -/

/-- R121: the exhaustive strategy enumerates exactly the candidate set. -/
def Obligations.CandidateSetIsExact : Prop :=
  ∀ (S : Entry) (x : List Byte) (i l d : Nat), i ≤ x.length →
    ((⟨l, d⟩ : Cand) ∈ candidates S x i ↔ IsCandidate S x i l d)

/-- FIND's order (R130): the list rises by displacement, then by length, so no candidate stands twice. -/
def Obligations.CandidatesRiseByDispThenLength : Prop :=
  ∀ (S : Entry) (x : List Byte) (i : Nat),
    (candidates S x i).Pairwise (fun a b => a.disp < b.disp ∨ (a.disp = b.disp ∧ a.len < b.len))

/-- R127: the candidate set is empty with too few upcoming bytes, with no history deep enough, when no displacement in
range extends far enough, and at the end. -/
def Obligations.CandidateSetEmptyCases : Prop :=
  ∀ (S : Entry) (x : List Byte) (i : Nat), i ≤ x.length →
    (x.length - i < S.lim.minLength → candidates S x i = []) ∧
    (S.pre.length + i < S.lim.minDisplacement → candidates S x i = []) ∧
    ((∀ d, S.lim.minDisplacement ≤ d → d ≤ min S.lim.maxDisplacement (S.pre.length + i) →
      matchExtent S x i d < S.lim.minLength) → candidates S x i = []) ∧
    (entryWf S = true → S.hasFinder = true → candidates S x x.length = [])

/-- FIND completes (R130, R220): the records of the candidate set, in order, at OUT[0..4|C|), and nothing else changes
but the results, STATUS and the working registers, which do not survive (R219). -/
def Obligations.FindWritesTheCandidates : Prop :=
  ∀ (f p : Bool) (s : State) (C : List Cand), s.params.wf = true → s.cmd.n.toNat ≤ s.params.inCap →
    s.cmd.scheme = 1#4 → s.cmd.pos.toNat ≤ s.cmd.n.toNat → C = candidates entryLz10 s.input s.cmd.pos.toNat →
    4 * C.length ≤ s.params.outCap → ∃ t, exec (.find f p) s = .next t ∧
      EndsDone t (4 * C.length) C.length 0 ∧ OutHolds t 0 (C.flatMap (fun c => encode (candRecord c))) ∧
      SameOutOutside 0 (4 * C.length) s t ∧ Keeps s t

/-- FIND's own errors (R130): a position past the input, then records that do not fit. -/
def Obligations.FindErrorsInOrder : Prop :=
  ∀ (f p : Bool) (s : State), s.cmd.n.toNat ≤ s.params.inCap → s.cmd.scheme = 1#4 →
    (s.cmd.n.toNat < s.cmd.pos.toNat → ∃ t, exec (.find f p) s = .next t ∧ ErrorEntered s t .illegalCommand 0) ∧
    (s.cmd.pos.toNat ≤ s.cmd.n.toNat →
      s.params.outCap < 4 * (candidates entryLz10 s.input s.cmd.pos.toNat).length →
      ∃ t, exec (.find f p) s = .next t ∧ ErrorEntered s t .capacityExceeded 0)

/-- CANDREC as one internal instruction of FIND (R112, R130; log entries 2 and 6): its four bytes at WRPTR, which moves
past them. -/
def Obligations.CandrecWritesFourBytes : Prop :=
  ∀ (l d : BitVec 16) (s : State), ∃ t, exec (.candrec l d) s = .next t ∧
    OutHolds t s.enc.wrptr.toNat [l.setWidth 8, (l >>> 8).setWidth 8, d.setWidth 8, (d >>> 8).setWidth 8] ∧
    SameOutOutside s.enc.wrptr.toNat (s.enc.wrptr.toNat + 4) s t ∧ t.enc.wrptr = s.enc.wrptr + 4#32 ∧
    t.enc.group = s.enc.group ∧ t.enc.groupN = s.enc.groupN ∧ t = (s.setOut t.outMem).setEnc t.enc

/-! ## Prices (41_price.md) -/

/-- PRICE completes (R143, R221, R141): 9 and 17 for every match within the LZ10 limitations; no byte of OUT changes,
nor anything but the results, STATUS and the working registers, which do not survive (R219). -/
def Obligations.PriceReportsBothPrices : Prop :=
  ∀ (f p : Bool) (s : State), s.cmd.n.toNat ≤ s.params.inCap → s.cmd.scheme = 1#4 →
    3 ≤ s.cmd.plen.toNat → s.cmd.plen.toNat ≤ 18 → 1 ≤ s.cmd.pdisp.toNat → s.cmd.pdisp.toNat ≤ 4096 →
    ∃ t, exec (.price f p) s = .next t ∧ EndsDone t 0 9 17 ∧ t.outMem = s.outMem ∧ Keeps s t

/-- PRICE outside the limitations is InvalidMatch (R143, D44). -/
def Obligations.PriceRejectsOutsideLimits : Prop :=
  ∀ (f p : Bool) (s : State), s.cmd.n.toNat ≤ s.params.inCap → s.cmd.scheme = 1#4 →
    (s.cmd.plen.toNat < 3 ∨ 18 < s.cmd.plen.toNat ∨ s.cmd.pdisp.toNat < 1 ∨ 4096 < s.cmd.pdisp.toNat) →
    ∃ t, exec (.price f p) s = .next t ∧ ErrorEntered s t .invalidMatch 0

/-- R144: for every token sequence the LZ10 payload is `ceil(k/8) + a + 2(k - a)` bytes, its cost `9a + 17(k - a)`
bits, the difference the 0 to 7 padding bits, so the payload is exactly `ceil(cost / 8)` bytes and the least where the
cost is least; the stream with FRAMING = 0 has 16 bytes more. -/
def Obligations.PayloadIsCeilOfCost : Prop :=
  ∀ T : List Token,
    (payload T).length = (T.length + 7) / 8 + literals T + 2 * (T.length - literals T) ∧
    cost entryLz10 T = 9 * literals T + 17 * (T.length - literals T) ∧
    8 * (payload T).length = cost entryLz10 T + (8 * ((T.length + 7) / 8) - T.length) ∧
    8 * ((T.length + 7) / 8) - T.length ≤ 7 ∧ cost entryLz10 T % 8 = T.length % 8 ∧
    (payload T).length = (cost entryLz10 T + 7) / 8 ∧
    streamLength false T = 16 + (cost entryLz10 T + 7) / 8 ∧
    ∀ T' : List Token, cost entryLz10 T ≤ cost entryLz10 T' → (payload T).length ≤ (payload T').length

/-! ## Parser (42_parser.md) -/

/-- R156: both parsers, over every well-formed entry with a finder, cover the input with valid tokens end to end, and
the spans add up to its length. -/
def Obligations.ParsersCoverTheInput : Prop :=
  ∀ (S : Entry) (x : List Byte), S.hasFinder = true → entryWf S = true →
    Covers S x 0 (optimalParse S x) ∧ Covers S x 0 (greedyParse S x) ∧
    spans (optimalParse S x) = x.length ∧ spans (greedyParse S x) = x.length

/-- R152, R153: best[0] is 0; pred[j] is an edge into j that achieves best[j], and every other edge into j costs more in
total or, at equal total, loses on weight, then displacement, then length. -/
def Obligations.PredecessorHasTheLeastKey : Prop :=
  ∀ (S : Entry) (x : List Byte), S.hasFinder = true → entryWf S = true →
    (dpArrays S x).best[0]? = some 0 ∧
    ∀ j, 1 ≤ j → j ≤ x.length →
      ∃ e, (dpArrays S x).pred[j - 1]? = some e ∧ e ∈ edges S x ∧ e.target = j ∧
        (dpArrays S x).best[j]? = some (e.total S (dpArrays S x).best) ∧
        ∀ e', e' ∈ edges S x → e'.target = j → e' ≠ e →
          e.total S (dpArrays S x).best < e'.total S (dpArrays S x).best ∨
          (e.total S (dpArrays S x).best = e'.total S (dpArrays S x).best ∧
            (tokenCost S e.tok < tokenCost S e'.tok ∨
              (tokenCost S e.tok = tokenCost S e'.tok ∧
                (tokenDisp e.tok < tokenDisp e'.tok ∨
                  (tokenDisp e.tok = tokenDisp e'.tok ∧ span e'.tok < span e.tok)))))

/-- R157: the optimal parse costs best[n], no covering sequence of valid tokens costs less, the greedy one among
them. -/
def Obligations.OptimalParseIsLeast : Prop :=
  ∀ (S : Entry) (x : List Byte), S.hasFinder = true → entryWf S = true →
    (dpArrays S x).best[x.length]? = some (cost S (optimalParse S x)) ∧
    (∀ T, Covers S x 0 T → cost S (optimalParse S x) ≤ cost S T) ∧
    Covers S x 0 (greedyParse S x) ∧ cost S (optimalParse S x) ≤ cost S (greedyParse S x)

/-- PARSE completes (R160, R222): the token records of the optimal parse at OUT[0..8k); records that do not fit are
CapacityExceeded. -/
def Obligations.ParseWritesTheTokens : Prop :=
  ∀ (f p : Bool) (s : State) (T : List Token), s.params.wf = true → s.cmd.n.toNat ≤ s.params.inCap →
    s.cmd.scheme = 1#4 → T = optimalParse entryLz10 s.input →
    (8 * T.length ≤ s.params.outCap →
      ∃ t, exec (.parse f p) s = .next t ∧ EndsDone t (8 * T.length) T.length (cost entryLz10 T) ∧
        OutHolds t 0 (T.flatMap (fun k => encode (tokenRecord k))) ∧ SameOutOutside 0 (8 * T.length) s t ∧
        Keeps s t) ∧
    (s.params.outCap < 8 * T.length → ∃ t, exec (.parse f p) s = .next t ∧ ErrorEntered s t .capacityExceeded 0)

/-- TOKREC_LIT and TOKREC_MATCH as internal instructions (R111): while PARSE writes, the record's eight bytes at WRPTR;
while ENCODE reads, the token joins the sequence, or a match outside the limitations or before the history is
InvalidMatch at the record's index (R176, R252). The direction by stage is log entry 15. -/
def Obligations.TokenRecordsAreWrittenOrTaken : Prop :=
  ∀ (v : Byte) (l d : BitVec 16) (s : State),
    (s.stage = .putTokens →
      (∃ t, exec (.tokrecLit v) s = .next t ∧
        OutHolds t s.enc.wrptr.toNat [0#8, v, 0#8, 0#8, 1#8, 0#8, 0#8, 0#8] ∧
        SameOutOutside s.enc.wrptr.toNat (s.enc.wrptr.toNat + 8) s t ∧ t.enc.wrptr = s.enc.wrptr + 8#32 ∧
        t.enc.group = s.enc.group ∧ t.enc.groupN = s.enc.groupN ∧ t = (s.setOut t.outMem).setEnc t.enc) ∧
      (∃ t, exec (.tokrecMatch l d) s = .next t ∧
        OutHolds t s.enc.wrptr.toNat
          [1#8, 0#8, 0#8, 0#8, l.setWidth 8, (l >>> 8).setWidth 8, d.setWidth 8, (d >>> 8).setWidth 8] ∧
        SameOutOutside s.enc.wrptr.toNat (s.enc.wrptr.toNat + 8) s t ∧ t.enc.wrptr = s.enc.wrptr + 8#32 ∧
        t.enc.group = s.enc.group ∧ t.enc.groupN = s.enc.groupN ∧ t = (s.setOut t.outMem).setEnc t.enc)) ∧
    (s.stage = .readRecords → s.cmd.scheme = 1#4 →
      exec (.tokrecLit v) s = .next (s.setSeq (s.seq ++ [.lit v])) ∧
      (3 ≤ l.toNat → l.toNat ≤ 18 → 1 ≤ d.toNat → d.toNat ≤ 4096 → d.toNat ≤ spans s.seq →
        exec (.tokrecMatch l d) s = .next (s.setSeq (s.seq ++ [.mat l.toNat d.toNat]))) ∧
      (l.toNat < 3 ∨ 18 < l.toNat ∨ d.toNat < 1 ∨ 4096 < d.toNat ∨ spans s.seq < d.toNat →
        ∃ t, exec (.tokrecMatch l d) s = .next t ∧ ErrorEntered s t .invalidMatch (8 * s.seq.length)))

/-! ## ENCODE and COMPRESS (43_lzss_codec.md section 1, 44_container.md, 45_commands.md) -/

/-- ENCODE completes (R176, R223, R170 to R175, R202): the records of any legal token sequence give its stream. -/
def Obligations.EncodeWritesTheStream : Prop :=
  ∀ (f p : Bool) (s : State) (T : List Token) (m : BitVec 3), s.params.wf = true →
    s.cmd.n.toNat ≤ s.params.inCap → s.cmd.scheme = 1#4 → s.cmd.n.toNat = 8 * T.length →
    InHolds s 0 (T.flatMap (fun k => encode (tokenRecord k))) → legalTokens 0 T = true →
    UsesMethod s.params f 1#4 m → spans T ≤ (if f then 2 ^ 29 - 1 else 2 ^ 32 - 1) →
    streamLength f T ≤ s.params.outCap →
    ∃ t, exec (.encode f p) s = .next t ∧ EndsDone t (streamLength f T) (spans T) T.length ∧
      OutHoldsStream t f p (spans T) m T ∧ ReservedKept s t f p ∧ SameOutOutside 0 (streamLength f T) s t ∧
      Keeps s t

/-- ENCODE's record errors (R176, R244, R252): a length that is no multiple of 8; then, behind any legal records, an
ill-formed record is MalformedToken and a match outside the limitations or before the history is InvalidMatch, each at
the record's index. -/
def Obligations.EncodeRejectsBadRecords : Prop :=
  ∀ (f p : Bool) (s : State) (m : BitVec 3), s.cmd.n.toNat ≤ s.params.inCap → s.cmd.scheme = 1#4 →
    UsesMethod s.params f 1#4 m →
    (s.cmd.n.toNat % 8 ≠ 0 → ∃ t, exec (.encode f p) s = .next t ∧
      ErrorEntered s t .malformedToken (s.cmd.n.toNat - s.cmd.n.toNat % 8)) ∧
    (∀ T : List Token, s.cmd.n.toNat % 8 = 0 → 8 * T.length + 8 ≤ s.cmd.n.toNat →
      InHolds s 0 (T.flatMap (fun k => encode (tokenRecord k))) → legalTokens 0 T = true →
      ((∃ e, decode .record (s.inMem.readBytes (8 * T.length) 8) = .error e) →
        ∃ t, exec (.encode f p) s = .next t ∧ ErrorEntered s t .malformedToken (8 * T.length)) ∧
      (∀ l d, InHolds s (8 * T.length) (encode (.tokrecMatch l d)) →
        (l.toNat < 3 ∨ 18 < l.toNat ∨ d.toNat < 1 ∨ 4096 < d.toNat ∨ spans T < d.toNat) →
        ∃ t, exec (.encode f p) s = .next t ∧ ErrorEntered s t .invalidMatch (8 * T.length)))

/-- ENCODE's remaining errors (R200, R176, R244, R247): no tag maps to the scheme; then, behind any legal records, spans
that exceed the size field, and a stream that does not fit in OUT, each before any byte is written. -/
def Obligations.EncodeSizeErrorsInOrder : Prop :=
  ∀ (f p : Bool) (s : State), s.cmd.n.toNat ≤ s.params.inCap → s.cmd.scheme = 1#4 →
    (f = true → (∀ m, methodScheme s.params m ≠ some 1#4) →
      ∃ t, exec (.encode f p) s = .next t ∧ ErrorEntered s t .unsupportedScheme 0) ∧
    (∀ (T : List Token) (m : BitVec 3), UsesMethod s.params f 1#4 m → s.cmd.n.toNat = 8 * T.length →
      InHolds s 0 (T.flatMap (fun k => encode (tokenRecord k))) → legalTokens 0 T = true →
      ((if f then 2 ^ 29 - 1 else 2 ^ 32 - 1) < spans T →
        ∃ t, exec (.encode f p) s = .next t ∧ ErrorEntered s t .sizeOverflow 0) ∧
      (spans T ≤ (if f then 2 ^ 29 - 1 else 2 ^ 32 - 1) → s.params.outCap < streamLength f T →
        ∃ t, exec (.encode f p) s = .next t ∧ ErrorEntered s t .capacityExceeded 0))

/-- COMPRESS completes (R224, R225): with LZ10, the stream of the optimal parse of the input; with NONE and
FRAMING = 1, the method word and the raw bytes. -/
def Obligations.CompressWritesTheStream : Prop :=
  ∀ (f p : Bool) (s : State) (m : BitVec 3), s.params.wf = true → s.cmd.n.toNat ≤ s.params.inCap →
    UsesMethod s.params f s.cmd.scheme m → (f = true → s.cmd.n.toNat ≤ 2 ^ 29 - 1) →
    (∀ T, s.cmd.scheme = 1#4 → T = optimalParse entryLz10 s.input → streamLength f T ≤ s.params.outCap →
      ∃ t, exec (.compress f p) s = .next t ∧ EndsDone t (streamLength f T) T.length (cost entryLz10 T) ∧
        OutHoldsStream t f p s.cmd.n.toNat m T ∧ ReservedKept s t f p ∧
        SameOutOutside 0 (streamLength f T) s t ∧ Keeps s t) ∧
    (s.cmd.scheme = 0#4 → f = true → 4 + s.cmd.n.toNat ≤ s.params.outCap →
      ∃ t, exec (.compress f p) s = .next t ∧ EndsDone t (4 + s.cmd.n.toNat) 0 0 ∧
        OutHolds t 0 (encode (.mword (BitVec.ofNat 29 s.cmd.n.toNat) m) ++ s.input) ∧
        SameOutOutside 0 (4 + s.cmd.n.toNat) s t ∧ Keeps s t)

/-- COMPRESS, the size and capacity checks (R200, R224, R242, R244, R247): no tag maps to the scheme, then
the 29-bit size, then the room in OUT, each before any byte is written. -/
def Obligations.CompressErrorsInOrder : Prop :=
  ∀ (f p : Bool) (s : State), s.cmd.n.toNat ≤ s.params.inCap →
    (s.cmd.scheme = 1#4 ∨ (s.cmd.scheme = 0#4 ∧ f = true)) →
    (f = true → (∀ m, methodScheme s.params m ≠ some s.cmd.scheme) →
      ∃ t, exec (.compress f p) s = .next t ∧ ErrorEntered s t .unsupportedScheme 0) ∧
    (∀ m, UsesMethod s.params f s.cmd.scheme m →
      (f = true → 2 ^ 29 - 1 < s.cmd.n.toNat →
        ∃ t, exec (.compress f p) s = .next t ∧ ErrorEntered s t .sizeOverflow 0) ∧
      ((f = true → s.cmd.n.toNat ≤ 2 ^ 29 - 1) →
        s.params.outCap < (if s.cmd.scheme = 0#4 then 4 + s.cmd.n.toNat
          else streamLength f (optimalParse entryLz10 s.input)) →
        ∃ t, exec (.compress f p) s = .next t ∧ ErrorEntered s t .capacityExceeded 0))

/-- R208: with FRAMING = 0 COMPRESS never raises SizeOverflow; the size fields hold up to 2^29 - 1 and 2^32 - 1. -/
def Obligations.CompressFraming0NeverOverflows : Prop :=
  (∀ w : BitVec 29, w.toNat ≤ 536870911) ∧ (∀ w : BitVec 32, w.toNat ≤ 2 ^ 32 - 1) ∧
  ∀ (p : Bool) (s t : State), exec (.compress false p) s = .next t → t.status.errCode ≠ 5#4

/-! ## DECOMPRESS and the round trip -/

/-- DECOMPRESS completes (R226, R227, R180 to R186, R202): the stream of any legal token sequence, whatever its reserved
bytes and whatever follows it, gives the bytes the tokens replay to. -/
def Obligations.DecompressReplaysTheTokens : Prop :=
  ∀ (f p : Bool) (s : State) (T : List Token) (m : BitVec 3) (rsvd : BitVec 64), s.params.wf = true →
    s.cmd.n.toNat ≤ s.params.inCap → (f = false → s.cmd.scheme = 1#4) →
    (f = true → methodScheme s.params m = some 1#4) → legalTokens 0 T = true → spans T ≤ s.params.outCap →
    (f = true → spans T ≤ 2 ^ 29 - 1) → streamLength f T ≤ s.cmd.n.toNat →
    InHolds s 0 ((if f then encode (.mword (BitVec.ofNat 29 (spans T)) m)
      else encode (.hdr16 s.params.containerTag rsvd (u32 (spans T)))) ++ payload T) →
    ∃ t, exec (.decompress f p) s = .next t ∧ EndsDone t (spans T) (streamLength f T) T.length ∧
      OutHolds t 0 (replay [] T) ∧ SameOutOutside 0 (spans T) s t ∧ Keeps s t

/-- DECOMPRESS of a raw body (R204, R227): the bytes behind the method word; RESULT0 shows RDPTR behind them and RESULT1
no token; a body shorter than the declared size is MalformedHeader. (The registers R204 gives no rule for: log entries 4,
7 and 23.) -/
def Obligations.DecompressCopiesTheRawBody : Prop :=
  ∀ (p : Bool) (s : State) (size : BitVec 29) (m : BitVec 3), s.cmd.n.toNat ≤ s.params.inCap →
    methodScheme s.params m = some 0#4 → InHolds s 0 (encode (.mword size m)) → size.toNat ≤ s.params.outCap →
    4 ≤ s.cmd.n.toNat →
    (s.cmd.n.toNat - 4 < size.toNat →
      ∃ t, exec (.decompress true p) s = .next t ∧ ErrorEntered s t .malformedHeader 0) ∧
    (size.toNat ≤ s.cmd.n.toNat - 4 →
      ∃ t, exec (.decompress true p) s = .next t ∧ EndsDone t size.toNat (4 + size.toNat) 0 ∧
        (∀ k, k < size.toNat → t.outMem.read k = s.inMem.read (4 + k)) ∧ SameOutOutside 0 size.toNat s t ∧
        Keeps s t)

/-- R131, R188: replaying a covering sequence of valid tokens gives the input back. -/
def Obligations.ReplayOfAParseIsTheInput : Prop :=
  ∀ (S : Entry) (x : List Byte) (T : List Token), S.pre = [] → S.hasFinder = true → entryWf S = true →
    Covers S x 0 T → replay [] T = x

/-- R229: COMPRESS of any input, then DECOMPRESS of what it wrote, gives the input back. -/
def Obligations.CompressThenDecompressIsIdentity : Prop :=
  ∀ (f p q : Bool) (s t u : State), s.params.wf = true → exec (.compress f p) s = .next t → t.status.done = true →
    u.params = s.params → u.cmd.scheme = s.cmd.scheme → u.cmd.n = t.res.outLen →
    (∀ a, a < t.res.outLen.toNat → u.inMem.read a = t.outMem.read a) →
    t.res.outLen.toNat ≤ s.params.inCap → s.cmd.n.toNat ≤ s.params.outCap →
    ∃ v, exec (.decompress f q) u = .next v ∧ v.status.done = true ∧ v.res.outLen = s.cmd.n ∧
      ∀ a, a < s.cmd.n.toNat → v.outMem.read a = s.inMem.read a

/-! ## Errors and the ends of commands (60_exceptions.md, 45_commands.md) -/

/-- R219, R240, R250: every command, from every state, ends its run: DONE, ERR, or a refusal; it never faults. Whichever
step ends a command, none of its working state survives: the working registers hold the free values of a draw from then
on, whatever they held (the free values are log entry 7's form of "does not survive"). -/
def Obligations.EveryCommandEnds : Prop :=
  (∀ (i : Instr) (s : State), isCommand i = true →
    (∃ t, exec i s = .next t ∧ Released t ∧ WorkReleased s t ∧ t.status.busy = false ∧
      t.status.done ≠ t.status.err ∧ t.status.legal = true) ∨ ∃ r, exec i s = .refused r) ∧
  ∀ s t : State, step s = .next t → s.status.busy = true → t.status.busy = false →
    (∀ rest, s.agenda ≠ .reset :: rest) → Released t ∧ WorkReleased s t

/-- R251: after an error OUT is as before, but for TruncatedStream, InvalidMatch and Overrun of DECOMPRESS, which leave
it as before from the size on that the stream declares. -/
def Obligations.ErrorsLeaveOutAsItWas : Prop :=
  ∀ (i : Instr) (s t : State), isCommand i = true → exec i s = .next t → t.status.err = true →
    ((∀ f p, i ≠ .decompress f p) → SameOut s t) ∧
    (t.status.errCode ≠ ErrCode.truncatedStream.code → t.status.errCode ≠ ErrCode.invalidMatch.code →
      t.status.errCode ≠ ErrCode.overrun.code → SameOut s t) ∧
    (∀ f p, i = .decompress f p → ∀ a, declaredSize s f ≤ a → t.outMem.read a = s.outMem.read a)

/-- R62: after a successful command OUT is unchanged from OUT_LEN on. -/
def Obligations.DoneLeavesOutBeyondOutLen : Prop :=
  ∀ (i : Instr) (s t : State), isCommand i = true → s.params.wf = true → exec i s = .next t →
    t.status.done = true → ∀ a, t.res.outLen.toNat ≤ a → t.outMem.read a = s.outMem.read a

/-- R61, R253: no instruction changes IN, the parameters, a host-written register or the latched operands. -/
def Obligations.InstructionsKeepTheHostSide : Prop :=
  ∀ (i : Instr) (s t : State), exec i s = .next t → Keeps s t

/-- R216, R178: a command reads only the latched operands, IN, OUT and the parameters: states that agree on them (and
on the next draw of unspecified bytes) get the same STATUS, results and OUT, whatever the working registers hold. -/
def Obligations.CommandsReadOnlyTheLatchedOperands : Prop :=
  ∀ (i : Instr) (s t u : State), isCommand i = true → t.params = s.params → t.cmd = s.cmd → t.inMem = s.inMem →
    t.outMem = s.outMem → t.draws = s.draws → exec i s = .next u →
    ∃ v, exec i t = .next v ∧ v.status = u.status ∧ v.res = u.res ∧ v.outMem = u.outMem

/-- R245: the common checks of the six commands, in order: a reserved OP first, whatever the other operands; then
cmd.N; then the scheme. Only LZ10, NONE with COMPRESS and FRAMING = 1, and a DECOMPRESS that takes its scheme from the
method word get past them (no scheme of the registry is BACKWARDS). The reserved OP is met at whichever event the engine
has its turn (log entries 1 and 2). -/
def Obligations.CommonChecksInOrder : Prop :=
  (∀ s u : State, (EngineTurn s u ∨ ∃ rest, s.agenda = .internal :: rest ∧ u = s.setAgenda rest) →
    s.status.busy = true → s.stage = .command → (s.cmd.op = 0#4 ∨ 7 ≤ s.cmd.op.toNat) →
    ∃ t, step s = .next t ∧ ErrorEntered u t .illegalCommand 0) ∧
  (∀ (i : Instr) (s : State), isCommand i = true →
    (s.params.inCap < s.cmd.n.toNat → ∃ t, exec i s = .next t ∧ ErrorEntered s t .illegalCommand 0) ∧
    (s.cmd.n.toNat ≤ s.params.inCap → (∀ p, i ≠ .decompress true p) →
      (5 ≤ s.cmd.scheme.toNat → ∃ t, exec i s = .next t ∧ ErrorEntered s t .unsupportedScheme 0) ∧
      (2 ≤ s.cmd.scheme.toNat → s.cmd.scheme.toNat ≤ 4 → exec i s = .refused .schemeNotInSource) ∧
      (s.cmd.scheme = 0#4 → (∀ p, i ≠ .compress true p) →
        ∃ t, exec i s = .next t ∧ ErrorEntered s t .illegalCommand 0))) ∧
  ∀ id, (registry id).backwards = false

/-! ## Host, registers and reset (10_state.md, 20_memory.md, 70_reset_and_hazards.md) -/

/-- R215, R216, R281: a CTRL write with START = 1 while IDLE latches the operands and sets BUSY alone; with START = 0 it
only stores the fields; while BUSY a CTRL write does nothing at all. (The stage, and the agenda the write is taken from,
are the model's own fields: log entries 2 and 1.) -/
def Obligations.StartLatchesTheOperands : Prop :=
  ∀ (s : State) (w : Word) (rest : List Event), s.agenda = .store .csr 0 (putLE32 w) :: rest →
    (s.status.busy = true → step s = .next (s.setAgenda rest)) ∧
    (s.status.busy = false → w.getLsbD 0 = false →
      step s = .next ((s.setAgenda rest).setCtrl ⟨w.extractLsb' 1 4, w.getLsbD 5, w.getLsbD 6⟩)) ∧
    (s.status.busy = false → w.getLsbD 0 = true → ∃ t, step s = .next t ∧
      t.status = { busy := true, done := false, err := false, errCode := 0#4 } ∧
      t.ctrl = ⟨w.extractLsb' 1 4, w.getLsbD 5, w.getLsbD 6⟩ ∧
      t.cmd.op = w.extractLsb' 1 4 ∧ t.cmd.framing = w.getLsbD 5 ∧ t.cmd.preserve = w.getLsbD 6 ∧
      t.cmd.scheme = s.opnd.scheme ∧ t.cmd.n = s.opnd.inLen ∧ t.cmd.pos = s.opnd.findPos ∧
      t.cmd.plen = s.opnd.priceLen ∧ t.cmd.pdisp = s.opnd.priceDisp ∧ t.stage = .command ∧
      t = ((((s.setAgenda rest).setCtrl t.ctrl).setStatus t.status).setCmd t.cmd).setStage .command)

/-- R281, R25, R28, R29, R30: while BUSY no CSR write has an effect; while IDLE an operand register holds what was
written (SCHEME its low four bits), and the read-only and the reserved offsets do not change. -/
def Obligations.CsrWritesStoreOnlyOperands : Prop :=
  ∀ (s : State) (off : Nat) (w : Word) (rest : List Event), off % 4 = 0 → off < 256 →
    s.agenda = .store .csr off (putLE32 w) :: rest →
    (s.status.busy = true → step s = .next (s.setAgenda rest)) ∧
    (s.status.busy = false →
      (off = 0x08 → step s = .next ((s.setAgenda rest).setOpnd { s.opnd with scheme := w.setWidth 4 })) ∧
      (off = 0x0C → step s = .next ((s.setAgenda rest).setOpnd { s.opnd with inLen := w })) ∧
      (off = 0x10 → step s = .next ((s.setAgenda rest).setOpnd { s.opnd with findPos := w })) ∧
      (off = 0x14 → step s = .next ((s.setAgenda rest).setOpnd { s.opnd with priceLen := w })) ∧
      (off = 0x18 → step s = .next ((s.setAgenda rest).setOpnd { s.opnd with priceDisp := w })) ∧
      (off = 0x04 ∨ 0x1C ≤ off → step s = .next (s.setAgenda rest)))

/-- R25, R27 to R34, R66: what a 32-bit read of each CSR returns; a read changes nothing else. -/
def Obligations.CsrReadsReturnTheRegisters : Prop :=
  ∀ (s : State) (off : Nat) (rest : List Event), off % 4 = 0 → off < 256 → s.agenda = .load .csr off 4 :: rest →
    ∃ w, step s = .next ((s.setAgenda rest).setHostData (.word w)) ∧
      (off = 0x00 → w = (s.ctrl.op.setWidth 32 <<< 1) ||| ((BitVec.ofBool s.ctrl.framing).setWidth 32 <<< 5)
        ||| ((BitVec.ofBool s.ctrl.preserve).setWidth 32 <<< 6)) ∧
      (off = 0x04 → w = (BitVec.ofBool s.status.busy).setWidth 32
        ||| ((BitVec.ofBool s.status.done).setWidth 32 <<< 1) ||| ((BitVec.ofBool s.status.err).setWidth 32 <<< 2)
        ||| (s.status.errCode.setWidth 32 <<< 4)) ∧
      (off = 0x08 → w = s.opnd.scheme.setWidth 32) ∧ (off = 0x0C → w = s.opnd.inLen) ∧
      (off = 0x10 → w = s.opnd.findPos) ∧ (off = 0x14 → w = s.opnd.priceLen) ∧
      (off = 0x18 → w = s.opnd.priceDisp) ∧ (off = 0x1C → w = s.res.outLen) ∧ (off = 0x20 → w = s.res.result0) ∧
      (off = 0x24 → w = s.res.result1) ∧ (off = 0x28 → w = s.res.errOffset) ∧
      (off = 0x48 → w = s.params.containerTag) ∧ (0x4C ≤ off → w = 0#32)

/-- R32, R33: the registry-derived registers of every scheme id: the LZ10 limitations for id 1 and 0 for the others, and
SCHEME_ATTR 0x1C, 0x18, 0x10 or 0; a write to one of them has no effect. -/
def Obligations.RegistryRegistersFollowScheme : Prop :=
  ∀ (s : State) (off : Nat) (rest : List Event), off % 4 = 0 → 0x2C ≤ off → off ≤ 0x44 →
    (s.agenda = .load .csr off 4 :: rest →
      ∃ w, step s = .next ((s.setAgenda rest).setHostData (.word w)) ∧
        (s.opnd.scheme = 1#4 →
          (off = 0x2C → w = 3#32) ∧ (off = 0x30 → w = 18#32) ∧ (off = 0x34 → w = 1#32) ∧
          (off = 0x38 → w = 4096#32) ∧ (off = 0x3C → w = 1#32) ∧ (off = 0x40 → w = 0#32) ∧
          (off = 0x44 → w = 0x1C#32)) ∧
        (s.opnd.scheme ≠ 1#4 → off < 0x44 → w = 0#32) ∧
        (off = 0x44 → (s.opnd.scheme = 0#4 → w = 0x18#32) ∧
          (2 ≤ s.opnd.scheme.toNat → s.opnd.scheme.toNat ≤ 4 → w = 0x10#32) ∧
          (5 ≤ s.opnd.scheme.toNat → w = 0#32))) ∧
    ∀ w : Word, s.agenda = .store .csr off (putLE32 w) :: rest → step s = .next (s.setAgenda rest)

/-- R66, R67, R60, R73, R280: the host accesses that have no meaning are refused: a CSR access that is not an aligned
32-bit access, one that is but at an offset of 256 or more, an index at or above a capacity, a write to IN or OUT while
BUSY, and an access at a platform address in none of the three spaces (R64; the stop is log entry 10's). That a write of
no bytes while BUSY is refused too, and under which name a write that is also out of range is, is log entry 18. -/
def Obligations.MeaninglessHostAccessesAreRefused : Prop :=
  ∀ (s : State) (rest : List Event) (a n : Nat) (bs : List Byte),
    (s.agenda = .load .csr a n :: rest → (n ≠ 4 ∨ a % 4 ≠ 0) → step s = .refused .csrAccessShape) ∧
    (s.agenda = .store .csr a bs :: rest → (bs.length ≠ 4 ∨ a % 4 ≠ 0) → step s = .refused .csrAccessShape) ∧
    (s.agenda = .load .inBuf a n :: rest → s.params.inCap < a + n → step s = .refused .hostOutOfRange) ∧
    (s.agenda = .load .outBuf a n :: rest → s.params.outCap < a + n → step s = .refused .hostOutOfRange) ∧
    (s.agenda = .store .inBuf a bs :: rest → s.status.busy = true → step s = .refused .hostWriteWhileBusy) ∧
    (s.agenda = .store .outBuf a bs :: rest → s.status.busy = true → step s = .refused .hostWriteWhileBusy) ∧
    (s.agenda = .store .inBuf a bs :: rest → s.status.busy = false → s.params.inCap < a + bs.length →
      step s = .refused .hostOutOfRange) ∧
    (s.agenda = .store .outBuf a bs :: rest → s.status.busy = false → s.params.outCap < a + bs.length →
      step s = .refused .hostOutOfRange) ∧
    (s.agenda = .load .csr a 4 :: rest → a % 4 = 0 → 256 ≤ a → step s = .refused .hostOutOfRange) ∧
    (s.agenda = .store .csr a bs :: rest → bs.length = 4 → a % 4 = 0 → 256 ≤ a →
      step s = .refused .hostOutOfRange) ∧
    ((s.agenda = .loadAt a n :: rest ∨ s.agenda = .storeAt a bs :: rest) →
      (a < s.params.csrBase ∨ s.params.csrBase + 256 ≤ a) →
      (a < s.params.inBase ∨ s.params.inBase + s.params.inCap ≤ a) →
      (a < s.params.outBase ∨ s.params.outBase + s.params.outCap ≤ a) → step s = .refused .noSuchAddress)

/-- R64 (log entry 10): a host access at a platform address is the access to the space whose base it lies above. -/
def Obligations.PlatformAddressesReachTheSpaces : Prop :=
  ∀ (s : State) (rest : List Event) (a n : Nat) (bs : List Byte), s.params.wf = true →
    (a < 256 →
      step (s.setAgenda (.loadAt (s.params.csrBase + a) n :: rest)) = step (s.setAgenda (.load .csr a n :: rest)) ∧
      step (s.setAgenda (.storeAt (s.params.csrBase + a) bs :: rest)) =
        step (s.setAgenda (.store .csr a bs :: rest))) ∧
    (a < s.params.inCap →
      step (s.setAgenda (.loadAt (s.params.inBase + a) n :: rest)) = step (s.setAgenda (.load .inBuf a n :: rest)) ∧
      step (s.setAgenda (.storeAt (s.params.inBase + a) bs :: rest)) =
        step (s.setAgenda (.store .inBuf a bs :: rest))) ∧
    (a < s.params.outCap →
      step (s.setAgenda (.loadAt (s.params.outBase + a) n :: rest)) =
        step (s.setAgenda (.load .outBuf a n :: rest)) ∧
      step (s.setAgenda (.storeAt (s.params.outBase + a) bs :: rest)) =
        step (s.setAgenda (.store .outBuf a bs :: rest)))

/-- R67, R73: an IDLE host write to IN or OUT below the capacity stores its bytes, the first at the lowest index, and
nothing else; a read of IN at any time, and of OUT while IDLE, returns the stored bytes and changes nothing else; a read
of OUT while BUSY returns bytes of which nothing is said (R282). Several bytes in one access: log entry 18. -/
def Obligations.HostAccessesMoveTheBytes : Prop :=
  ∀ (s : State) (rest : List Event) (a n : Nat) (bs : List Byte),
    (s.agenda = .store .inBuf a bs :: rest → s.status.busy = false → a + bs.length ≤ s.params.inCap →
      ∃ t, step s = .next t ∧ InHolds t a bs ∧ t = (s.setAgenda rest).setIn t.inMem ∧
        ∀ b, b < a ∨ a + bs.length ≤ b → t.inMem.read b = s.inMem.read b) ∧
    (s.agenda = .store .outBuf a bs :: rest → s.status.busy = false → a + bs.length ≤ s.params.outCap →
      ∃ t, step s = .next t ∧ OutHolds t a bs ∧ t = (s.setAgenda rest).setOut t.outMem ∧
        SameOutOutside a (a + bs.length) s t) ∧
    (s.agenda = .load .inBuf a n :: rest → a + n ≤ s.params.inCap →
      ∃ r, step s = .next ((s.setAgenda rest).setHostData (.bytes r)) ∧ r.length = n ∧ InHolds s a r) ∧
    (s.agenda = .load .outBuf a n :: rest → s.status.busy = false → a + n ≤ s.params.outCap →
      ∃ r, step s = .next ((s.setAgenda rest).setHostData (.bytes r)) ∧ r.length = n ∧ OutHolds s a r) ∧
    (s.agenda = .load .outBuf a n :: rest → s.status.busy = true → a + n ≤ s.params.outCap →
      ∃ r, step s = .next (((s.setAgenda rest).setHostData (.bytes r)).setDraws (s.draws + 1)) ∧ r.length = n)

/-- R270, R271, R45, R25: reset, from any state and in the middle of any command, leaves the CSRs at their reset values,
the engine IDLE and no byte of IN or OUT settled. (The working registers' zeros are the model's choice, log entry 5, and
not stated; that the outside's agenda stays is log entry 13, and a memory without settled bytes log entry 4's form of
unspecified.) -/
def Obligations.ResetLeavesTheResetValues : Prop :=
  ∀ (s : State) (rest : List Event), s.agenda = .reset :: rest → ∃ t, step s = .next t ∧
    t.params = s.params ∧ t.agenda = rest ∧ t.ctrl = ⟨0#4, false, false⟩ ∧
    t.status = ⟨false, false, false, 0#4⟩ ∧ t.opnd = ⟨1#4, 0#32, 0#32, 0#32, 0#32⟩ ∧
    t.res = ⟨0#32, 0#32, 0#32, 0#32⟩ ∧ Released t ∧ t.inMem.cells = [] ∧ t.outMem.cells = [] ∧
    csrRead registry .limMinLen t = 3#32 ∧ csrRead registry .limMaxLen t = 18#32 ∧
    csrRead registry .limMinDisp t = 1#32 ∧ csrRead registry .limMaxDisp t = 4096#32 ∧
    csrRead registry .limUnit t = 1#32 ∧ csrRead registry .limPreLen t = 0#32 ∧
    csrRead registry .schemeAttr t = 0x1C#32

/-- R45, R270 for State.reset: the reset column of R25 as the host reads it. -/
def Obligations.ResetStateReadsAsTheResetColumn : Prop :=
  ∀ c : Csr, csrRead registry c State.reset =
    match c with
    | .scheme => 1#32
    | .limMinLen => 3#32
    | .limMaxLen => 18#32
    | .limMinDisp => 1#32
    | .limMaxDisp => 4096#32
    | .limUnit => 1#32
    | .schemeAttr => 0x1C#32
    | .tag => State.reset.params.containerTag
    | _ => 0#32

/-- R21, R263: in IDLE the engine takes no step, at neither grain; a WAIT that finds it IDLE reads STATUS and is over
(R115). -/
def Obligations.IdleEngineTakesNoStep : Prop :=
  ∀ s : State, s.status.busy = false →
    (s.agenda = [] → step s = .next s) ∧
    (∀ rest, s.agenda = .engine :: rest ∨ s.agenda = .internal :: rest → step s = .next (s.setAgenda rest)) ∧
    (∀ rest, s.agenda = .wait :: rest →
      step s = .next ((s.setAgenda rest).setHostData (.word (csrRead registry .status s))))

/-! ## The step and its invariants -/

/-- A step runs the decoded instruction: at whichever event the engine has its turn (R21, R115, R285), the latched
command, or inside an opened command the instruction whose bytes stand where the engine reads next, is what the step
executes, with nothing around it but the event taken off the agenda. On the event internal a latched command is opened
instead (log entry 2). -/
def Obligations.StepRunsTheDecodedInstruction : Prop :=
  (∀ (s u : State) (i : Instr), EngineTurn s u → s.status.busy = true →
    (∀ rest, s.stage = .command →
      decode .command (putLE32 (ctrlWord true s.cmd.op s.cmd.framing s.cmd.preserve)) = .ok (i, rest) →
      step s = exec i u) ∧
    (s.stage = .header → i.form = (if s.cmd.framing then .methodWord else .header16) → InHolds s 0 (encode i) →
      (encode i).length ≤ s.cmd.n.toNat → step s = exec i u) ∧
    (s.stage = .stream → s.dec.outpos.toNat < s.dec.size.toNat → i.wellFormed = true →
      i.form = (if s.dec.bitsLeft = 0 then .control else if s.dec.flags.getLsbD 7 then .matchPair else .literal) →
      InHolds s s.dec.rdptr.toNat (encode i) → s.dec.rdptr.toNat + (encode i).length ≤ s.cmd.n.toNat →
      step s = exec i u) ∧
    (s.stage = .readRecords → i.form = .record → InHolds s (8 * s.seq.length) (encode i) →
      8 * s.seq.length + 8 ≤ s.cmd.n.toNat → step s = exec i u) ∧
    (∀ c, s.stage = .putCands → s.cands[s.enc.wrptr.toNat / 4]? = some c → step s = exec (candRecord c) u) ∧
    (∀ k, s.stage = .putTokens → s.seq[s.enc.wrptr.toNat / 8]? = some k → step s = exec (tokenRecord k) u)) ∧
  ∀ (s : State) (i : Instr) (rest : List Event) (bs : List Byte), s.agenda = .internal :: rest →
    s.status.busy = true → s.stage = .command →
    decode .command (putLE32 (ctrlWord true s.cmd.op s.cmd.framing s.cmd.preserve)) = .ok (i, bs) →
    step s = openCommand i (s.setAgenda rest)

/-- An instruction placed with withFetchWord is what the very next step runs, from any state (log entry 14). -/
def Obligations.PlacedWordIsRunNext : Prop :=
  ∀ (s : State) (nbits w : Nat) (i : Instr), decodeTableWord nbits w = some i →
    step (s.withFetchWord nbits w) = exec i (s.withFetchWord nbits w)

/-- R21, R3 (log entry 2): a command run one internal instruction at a time ends in the very state, or the refusal, that
its one completion step gives. -/
def Obligations.InternalStepsAgreeWithCompletion : Prop :=
  ∀ s : State, s.params.wf = true → s.status.busy = true → s.stage = .command → s.agenda = [.internal] →
    ∃ k, Host.Core.run core k s = step (s.setAgenda [])

/-- The invariant holds at reset of an instance with well-formed parameters (R45). -/
def Obligations.InvariantHoldsAtReset : Prop :=
  State.Inv State.reset ∧ ∀ (p : Params) (k : Nat) (ag : List Event), p.wf = true → State.Inv (State.resetWith p k ag)

/-- Every step keeps the invariant: legal STATUS (R27), memories in canonical form and within the capacities (R246),
IDLE only between commands (R21), RDPTR, OUTPOS and SIZE in bounds (R37, R62). -/
def Obligations.StepKeepsTheInvariant : Prop :=
  ∀ s t : State, State.Inv s → step s = .next t → State.Inv t

/-- R40: STATUS changes only at START acceptance (a host write of CTRL with bit 0 = 1 while IDLE, in its own space or at
its platform address), at a completion step and at reset. -/
def Obligations.StatusChangesOnlyByStartCompletionReset : Prop :=
  ∀ s t : State, step s = .next t → t.status ≠ s.status →
    (s.status.busy = false ∧ t.status = ⟨true, false, false, 0#4⟩ ∧
      ∃ (w : Word) (rest : List Event), w.getLsbD 0 = true ∧
        (s.agenda = .store .csr 0 (putLE32 w) :: rest ∨
          ∃ addr, locate s.params addr = some (.csr, 0) ∧ s.agenda = .storeAt addr (putLE32 w) :: rest)) ∨
    (s.status.busy = true ∧ (t.status = ⟨false, true, false, 0#4⟩ ∨
      ∃ e : ErrCode, t.status = ⟨false, false, true, e.code⟩)) ∨
    (t.status = ⟨false, false, false, 0#4⟩ ∧ ∃ rest, s.agenda = .reset :: rest)

/-- R31, R40: the result registers change only at a completion step and at reset; IN changes only by a host write to it
while IDLE, or by reset (R61, R73). -/
def Obligations.ResultsAndInputChangeOnlyAsStated : Prop :=
  ∀ s t : State, step s = .next t →
    (t.res ≠ s.res → (s.status.busy = true ∧ t.status.busy = false) ∨ ∃ rest, s.agenda = .reset :: rest) ∧
    (t.inMem ≠ s.inMem →
      (s.status.busy = false ∧ ∃ (a : Nat) (bs : List Byte) (rest : List Event),
        s.agenda = .store .inBuf a bs :: rest ∨
          ∃ addr, locate s.params addr = some (.inBuf, a) ∧ s.agenda = .storeAt addr bs :: rest) ∨
      ∃ rest, s.agenda = .reset :: rest) ∧
    t.params = s.params

/-- R241: the nine error codes. -/
def Obligations.ErrorCodesAreNumbered : Prop :=
  ErrCode.unsupportedScheme.code = 1#4 ∧ ErrCode.malformedHeader.code = 2#4 ∧ ErrCode.truncatedStream.code = 3#4 ∧
  ErrCode.invalidMatch.code = 4#4 ∧ ErrCode.sizeOverflow.code = 5#4 ∧ ErrCode.overrun.code = 6#4 ∧
  ErrCode.illegalCommand.code = 7#4 ∧ ErrCode.capacityExceeded.code = 8#4 ∧ ErrCode.malformedToken.code = 9#4

/-! ## Assembly (30_encoding.md section 7) -/

/-- R114: `COPY l, d` expands to match tokens of displacement `d` and lengths 3 to 18 that span `l`, legal wherever `d`
bytes precede them and `d` fits a token, and they replay to the one copy of length `l`; `RUN b, n` expands to tokens that
are legal everywhere, span `n` and replay to `n` times `b`. -/
def Obligations.CopyAndRunExpandToLegalTokens : Prop :=
  (∀ (l d : Nat) (acc : List Byte), 3 ≤ l →
    (∀ t, t ∈ expandCopy l d → ∃ n, t = .mat n d ∧ 3 ≤ n ∧ n ≤ 18) ∧
    spans (expandCopy l d) = l ∧ replay acc (expandCopy l d) = replayMatch d l acc ∧
    ∀ pos, 1 ≤ d → d ≤ 4096 → d ≤ pos → legalTokens pos (expandCopy l d) = true) ∧
  ∀ (b : Byte) (n : Nat) (acc : List Byte), 1 ≤ n →
    (∀ pos, legalTokens pos (expandRun b n) = true) ∧ spans (expandRun b n) = n ∧
    replay acc (expandRun b n) = acc ++ List.replicate n b
end

