-- ==== Sys2Proof/Laws/Decode.lean ====
section
/-! SUPPORT. Small lemmas of the byte-order helpers and of the CTRL word's fields. -/

namespace Sys2Proof

/-- Two neighbouring fields of one value are one field. -/
theorem extractLsb'_join {w : Nat} (v : BitVec w) (lo n m : Nat) :
    v.extractLsb' (lo + m) n ++ v.extractLsb' lo m = v.extractLsb' lo (n + m) := by
  apply BitVec.eq_of_getLsbD_eq
  intro i hi
  rw [BitVec.getLsbD_append, BitVec.getLsbD_extractLsb', BitVec.getLsbD_extractLsb', BitVec.getLsbD_extractLsb']
  by_cases h : i < m
  · simp [h]; omega
  · rw [if_neg h, show lo + m + (i - m) = lo + i by omega]; simp [hi]; omega

theorem le16_bytes (v : BitVec 16) : le16 (v.extractLsb' 0 8) (v.extractLsb' 8 8) = v := by
  unfold le16
  rw [extractLsb'_join v 0 8 8]
  exact BitVec.extractLsb'_eq_self

theorem le32_bytes (v : BitVec 32) :
    le32 (v.extractLsb' 0 8) (v.extractLsb' 8 8) (v.extractLsb' 16 8) (v.extractLsb' 24 8) = v := by
  unfold le32
  rw [extractLsb'_join v 16 8 8, extractLsb'_join v 8 16 8, extractLsb'_join v 0 24 8]
  exact BitVec.extractLsb'_eq_self

theorem le64_bytes (v : BitVec 64) :
    le64 (v.extractLsb' 0 8) (v.extractLsb' 8 8) (v.extractLsb' 16 8) (v.extractLsb' 24 8)
      (v.extractLsb' 32 8) (v.extractLsb' 40 8) (v.extractLsb' 48 8) (v.extractLsb' 56 8) = v := by
  unfold le64
  rw [extractLsb'_join v 48 8 8, extractLsb'_join v 40 16 8, extractLsb'_join v 32 24 8, extractLsb'_join v 24 32 8,
    extractLsb'_join v 16 40 8, extractLsb'_join v 8 48 8, extractLsb'_join v 0 56 8]
  exact BitVec.extractLsb'_eq_self

@[simp] theorem length_putLE16 (v : BitVec 16) : (putLE16 v).length = 2 := rfl
@[simp] theorem length_putLE32 (v : BitVec 32) : (putLE32 v).length = 4 := rfl
@[simp] theorem length_putLE64 (v : BitVec 64) : (putLE64 v).length = 8 := rfl
@[simp] theorem length_matchBytes (l d : Nat) : (matchBytes l d).length = 2 := rfl

variable (start framing preserve : Bool) (op : BitVec 4)

@[simp] theorem ctrlStart_ctrlWord : ctrlStart (ctrlWord start op framing preserve) = start := by
  revert op; cases start <;> cases framing <;> cases preserve <;> decide

@[simp] theorem ctrlOp_ctrlWord : ctrlOp (ctrlWord start op framing preserve) = op := by
  revert op; cases start <;> cases framing <;> cases preserve <;> decide

@[simp] theorem ctrlFraming_ctrlWord : ctrlFraming (ctrlWord start op framing preserve) = framing := by
  revert op; cases start <;> cases framing <;> cases preserve <;> decide

@[simp] theorem ctrlPreserve_ctrlWord : ctrlPreserve (ctrlWord start op framing preserve) = preserve := by
  revert op; cases start <;> cases framing <;> cases preserve <;> decide

end Sys2Proof
end

