-- ==== Sys2Proof/Laws/State.lean ====
section
/-! SUPPORT. One lemma per field per update of State, so that no later proof unfolds a record update. -/

namespace Sys2Proof.Machine

variable (s : State)

@[simp] theorem State.setCtrl_params (v : Ctrl) : (s.setCtrl v).params = s.params := rfl
@[simp] theorem State.setCtrl_ctrl (v : Ctrl) : (s.setCtrl v).ctrl = v := rfl
@[simp] theorem State.setCtrl_status (v : Ctrl) : (s.setCtrl v).status = s.status := rfl
@[simp] theorem State.setCtrl_opnd (v : Ctrl) : (s.setCtrl v).opnd = s.opnd := rfl
@[simp] theorem State.setCtrl_res (v : Ctrl) : (s.setCtrl v).res = s.res := rfl
@[simp] theorem State.setCtrl_cmd (v : Ctrl) : (s.setCtrl v).cmd = s.cmd := rfl
@[simp] theorem State.setCtrl_dec (v : Ctrl) : (s.setCtrl v).dec = s.dec := rfl
@[simp] theorem State.setCtrl_enc (v : Ctrl) : (s.setCtrl v).enc = s.enc := rfl
@[simp] theorem State.setCtrl_dp (v : Ctrl) : (s.setCtrl v).dp = s.dp := rfl
@[simp] theorem State.setCtrl_cands (v : Ctrl) : (s.setCtrl v).cands = s.cands := rfl
@[simp] theorem State.setCtrl_seq (v : Ctrl) : (s.setCtrl v).seq = s.seq := rfl
@[simp] theorem State.setCtrl_inMem (v : Ctrl) : (s.setCtrl v).inMem = s.inMem := rfl
@[simp] theorem State.setCtrl_outMem (v : Ctrl) : (s.setCtrl v).outMem = s.outMem := rfl
@[simp] theorem State.setCtrl_stage (v : Ctrl) : (s.setCtrl v).stage = s.stage := rfl
@[simp] theorem State.setCtrl_draws (v : Ctrl) : (s.setCtrl v).draws = s.draws := rfl
@[simp] theorem State.setCtrl_agenda (v : Ctrl) : (s.setCtrl v).agenda = s.agenda := rfl
@[simp] theorem State.setCtrl_hostData (v : Ctrl) : (s.setCtrl v).hostData = s.hostData := rfl

@[simp] theorem State.setStatus_params (v : Status) : (s.setStatus v).params = s.params := rfl
@[simp] theorem State.setStatus_ctrl (v : Status) : (s.setStatus v).ctrl = s.ctrl := rfl
@[simp] theorem State.setStatus_status (v : Status) : (s.setStatus v).status = v := rfl
@[simp] theorem State.setStatus_opnd (v : Status) : (s.setStatus v).opnd = s.opnd := rfl
@[simp] theorem State.setStatus_res (v : Status) : (s.setStatus v).res = s.res := rfl
@[simp] theorem State.setStatus_cmd (v : Status) : (s.setStatus v).cmd = s.cmd := rfl
@[simp] theorem State.setStatus_dec (v : Status) : (s.setStatus v).dec = s.dec := rfl
@[simp] theorem State.setStatus_enc (v : Status) : (s.setStatus v).enc = s.enc := rfl
@[simp] theorem State.setStatus_dp (v : Status) : (s.setStatus v).dp = s.dp := rfl
@[simp] theorem State.setStatus_cands (v : Status) : (s.setStatus v).cands = s.cands := rfl
@[simp] theorem State.setStatus_seq (v : Status) : (s.setStatus v).seq = s.seq := rfl
@[simp] theorem State.setStatus_inMem (v : Status) : (s.setStatus v).inMem = s.inMem := rfl
@[simp] theorem State.setStatus_outMem (v : Status) : (s.setStatus v).outMem = s.outMem := rfl
@[simp] theorem State.setStatus_stage (v : Status) : (s.setStatus v).stage = s.stage := rfl
@[simp] theorem State.setStatus_draws (v : Status) : (s.setStatus v).draws = s.draws := rfl
@[simp] theorem State.setStatus_agenda (v : Status) : (s.setStatus v).agenda = s.agenda := rfl
@[simp] theorem State.setStatus_hostData (v : Status) : (s.setStatus v).hostData = s.hostData := rfl

@[simp] theorem State.setOpnd_params (v : Operands) : (s.setOpnd v).params = s.params := rfl
@[simp] theorem State.setOpnd_ctrl (v : Operands) : (s.setOpnd v).ctrl = s.ctrl := rfl
@[simp] theorem State.setOpnd_status (v : Operands) : (s.setOpnd v).status = s.status := rfl
@[simp] theorem State.setOpnd_opnd (v : Operands) : (s.setOpnd v).opnd = v := rfl
@[simp] theorem State.setOpnd_res (v : Operands) : (s.setOpnd v).res = s.res := rfl
@[simp] theorem State.setOpnd_cmd (v : Operands) : (s.setOpnd v).cmd = s.cmd := rfl
@[simp] theorem State.setOpnd_dec (v : Operands) : (s.setOpnd v).dec = s.dec := rfl
@[simp] theorem State.setOpnd_enc (v : Operands) : (s.setOpnd v).enc = s.enc := rfl
@[simp] theorem State.setOpnd_dp (v : Operands) : (s.setOpnd v).dp = s.dp := rfl
@[simp] theorem State.setOpnd_cands (v : Operands) : (s.setOpnd v).cands = s.cands := rfl
@[simp] theorem State.setOpnd_seq (v : Operands) : (s.setOpnd v).seq = s.seq := rfl
@[simp] theorem State.setOpnd_inMem (v : Operands) : (s.setOpnd v).inMem = s.inMem := rfl
@[simp] theorem State.setOpnd_outMem (v : Operands) : (s.setOpnd v).outMem = s.outMem := rfl
@[simp] theorem State.setOpnd_stage (v : Operands) : (s.setOpnd v).stage = s.stage := rfl
@[simp] theorem State.setOpnd_draws (v : Operands) : (s.setOpnd v).draws = s.draws := rfl
@[simp] theorem State.setOpnd_agenda (v : Operands) : (s.setOpnd v).agenda = s.agenda := rfl
@[simp] theorem State.setOpnd_hostData (v : Operands) : (s.setOpnd v).hostData = s.hostData := rfl

@[simp] theorem State.setRes_params (v : Results) : (s.setRes v).params = s.params := rfl
@[simp] theorem State.setRes_ctrl (v : Results) : (s.setRes v).ctrl = s.ctrl := rfl
@[simp] theorem State.setRes_status (v : Results) : (s.setRes v).status = s.status := rfl
@[simp] theorem State.setRes_opnd (v : Results) : (s.setRes v).opnd = s.opnd := rfl
@[simp] theorem State.setRes_res (v : Results) : (s.setRes v).res = v := rfl
@[simp] theorem State.setRes_cmd (v : Results) : (s.setRes v).cmd = s.cmd := rfl
@[simp] theorem State.setRes_dec (v : Results) : (s.setRes v).dec = s.dec := rfl
@[simp] theorem State.setRes_enc (v : Results) : (s.setRes v).enc = s.enc := rfl
@[simp] theorem State.setRes_dp (v : Results) : (s.setRes v).dp = s.dp := rfl
@[simp] theorem State.setRes_cands (v : Results) : (s.setRes v).cands = s.cands := rfl
@[simp] theorem State.setRes_seq (v : Results) : (s.setRes v).seq = s.seq := rfl
@[simp] theorem State.setRes_inMem (v : Results) : (s.setRes v).inMem = s.inMem := rfl
@[simp] theorem State.setRes_outMem (v : Results) : (s.setRes v).outMem = s.outMem := rfl
@[simp] theorem State.setRes_stage (v : Results) : (s.setRes v).stage = s.stage := rfl
@[simp] theorem State.setRes_draws (v : Results) : (s.setRes v).draws = s.draws := rfl
@[simp] theorem State.setRes_agenda (v : Results) : (s.setRes v).agenda = s.agenda := rfl
@[simp] theorem State.setRes_hostData (v : Results) : (s.setRes v).hostData = s.hostData := rfl

@[simp] theorem State.setCmd_params (v : Latched) : (s.setCmd v).params = s.params := rfl
@[simp] theorem State.setCmd_ctrl (v : Latched) : (s.setCmd v).ctrl = s.ctrl := rfl
@[simp] theorem State.setCmd_status (v : Latched) : (s.setCmd v).status = s.status := rfl
@[simp] theorem State.setCmd_opnd (v : Latched) : (s.setCmd v).opnd = s.opnd := rfl
@[simp] theorem State.setCmd_res (v : Latched) : (s.setCmd v).res = s.res := rfl
@[simp] theorem State.setCmd_cmd (v : Latched) : (s.setCmd v).cmd = v := rfl
@[simp] theorem State.setCmd_dec (v : Latched) : (s.setCmd v).dec = s.dec := rfl
@[simp] theorem State.setCmd_enc (v : Latched) : (s.setCmd v).enc = s.enc := rfl
@[simp] theorem State.setCmd_dp (v : Latched) : (s.setCmd v).dp = s.dp := rfl
@[simp] theorem State.setCmd_cands (v : Latched) : (s.setCmd v).cands = s.cands := rfl
@[simp] theorem State.setCmd_seq (v : Latched) : (s.setCmd v).seq = s.seq := rfl
@[simp] theorem State.setCmd_inMem (v : Latched) : (s.setCmd v).inMem = s.inMem := rfl
@[simp] theorem State.setCmd_outMem (v : Latched) : (s.setCmd v).outMem = s.outMem := rfl
@[simp] theorem State.setCmd_stage (v : Latched) : (s.setCmd v).stage = s.stage := rfl
@[simp] theorem State.setCmd_draws (v : Latched) : (s.setCmd v).draws = s.draws := rfl
@[simp] theorem State.setCmd_agenda (v : Latched) : (s.setCmd v).agenda = s.agenda := rfl
@[simp] theorem State.setCmd_hostData (v : Latched) : (s.setCmd v).hostData = s.hostData := rfl

@[simp] theorem State.setDec_params (v : DecRegs) : (s.setDec v).params = s.params := rfl
@[simp] theorem State.setDec_ctrl (v : DecRegs) : (s.setDec v).ctrl = s.ctrl := rfl
@[simp] theorem State.setDec_status (v : DecRegs) : (s.setDec v).status = s.status := rfl
@[simp] theorem State.setDec_opnd (v : DecRegs) : (s.setDec v).opnd = s.opnd := rfl
@[simp] theorem State.setDec_res (v : DecRegs) : (s.setDec v).res = s.res := rfl
@[simp] theorem State.setDec_cmd (v : DecRegs) : (s.setDec v).cmd = s.cmd := rfl
@[simp] theorem State.setDec_dec (v : DecRegs) : (s.setDec v).dec = v := rfl
@[simp] theorem State.setDec_enc (v : DecRegs) : (s.setDec v).enc = s.enc := rfl
@[simp] theorem State.setDec_dp (v : DecRegs) : (s.setDec v).dp = s.dp := rfl
@[simp] theorem State.setDec_cands (v : DecRegs) : (s.setDec v).cands = s.cands := rfl
@[simp] theorem State.setDec_seq (v : DecRegs) : (s.setDec v).seq = s.seq := rfl
@[simp] theorem State.setDec_inMem (v : DecRegs) : (s.setDec v).inMem = s.inMem := rfl
@[simp] theorem State.setDec_outMem (v : DecRegs) : (s.setDec v).outMem = s.outMem := rfl
@[simp] theorem State.setDec_stage (v : DecRegs) : (s.setDec v).stage = s.stage := rfl
@[simp] theorem State.setDec_draws (v : DecRegs) : (s.setDec v).draws = s.draws := rfl
@[simp] theorem State.setDec_agenda (v : DecRegs) : (s.setDec v).agenda = s.agenda := rfl
@[simp] theorem State.setDec_hostData (v : DecRegs) : (s.setDec v).hostData = s.hostData := rfl

@[simp] theorem State.setEnc_params (v : EncRegs) : (s.setEnc v).params = s.params := rfl
@[simp] theorem State.setEnc_ctrl (v : EncRegs) : (s.setEnc v).ctrl = s.ctrl := rfl
@[simp] theorem State.setEnc_status (v : EncRegs) : (s.setEnc v).status = s.status := rfl
@[simp] theorem State.setEnc_opnd (v : EncRegs) : (s.setEnc v).opnd = s.opnd := rfl
@[simp] theorem State.setEnc_res (v : EncRegs) : (s.setEnc v).res = s.res := rfl
@[simp] theorem State.setEnc_cmd (v : EncRegs) : (s.setEnc v).cmd = s.cmd := rfl
@[simp] theorem State.setEnc_dec (v : EncRegs) : (s.setEnc v).dec = s.dec := rfl
@[simp] theorem State.setEnc_enc (v : EncRegs) : (s.setEnc v).enc = v := rfl
@[simp] theorem State.setEnc_dp (v : EncRegs) : (s.setEnc v).dp = s.dp := rfl
@[simp] theorem State.setEnc_cands (v : EncRegs) : (s.setEnc v).cands = s.cands := rfl
@[simp] theorem State.setEnc_seq (v : EncRegs) : (s.setEnc v).seq = s.seq := rfl
@[simp] theorem State.setEnc_inMem (v : EncRegs) : (s.setEnc v).inMem = s.inMem := rfl
@[simp] theorem State.setEnc_outMem (v : EncRegs) : (s.setEnc v).outMem = s.outMem := rfl
@[simp] theorem State.setEnc_stage (v : EncRegs) : (s.setEnc v).stage = s.stage := rfl
@[simp] theorem State.setEnc_draws (v : EncRegs) : (s.setEnc v).draws = s.draws := rfl
@[simp] theorem State.setEnc_agenda (v : EncRegs) : (s.setEnc v).agenda = s.agenda := rfl
@[simp] theorem State.setEnc_hostData (v : EncRegs) : (s.setEnc v).hostData = s.hostData := rfl

@[simp] theorem State.setDp_params (v : Option Dp) : (s.setDp v).params = s.params := rfl
@[simp] theorem State.setDp_ctrl (v : Option Dp) : (s.setDp v).ctrl = s.ctrl := rfl
@[simp] theorem State.setDp_status (v : Option Dp) : (s.setDp v).status = s.status := rfl
@[simp] theorem State.setDp_opnd (v : Option Dp) : (s.setDp v).opnd = s.opnd := rfl
@[simp] theorem State.setDp_res (v : Option Dp) : (s.setDp v).res = s.res := rfl
@[simp] theorem State.setDp_cmd (v : Option Dp) : (s.setDp v).cmd = s.cmd := rfl
@[simp] theorem State.setDp_dec (v : Option Dp) : (s.setDp v).dec = s.dec := rfl
@[simp] theorem State.setDp_enc (v : Option Dp) : (s.setDp v).enc = s.enc := rfl
@[simp] theorem State.setDp_dp (v : Option Dp) : (s.setDp v).dp = v := rfl
@[simp] theorem State.setDp_cands (v : Option Dp) : (s.setDp v).cands = s.cands := rfl
@[simp] theorem State.setDp_seq (v : Option Dp) : (s.setDp v).seq = s.seq := rfl
@[simp] theorem State.setDp_inMem (v : Option Dp) : (s.setDp v).inMem = s.inMem := rfl
@[simp] theorem State.setDp_outMem (v : Option Dp) : (s.setDp v).outMem = s.outMem := rfl
@[simp] theorem State.setDp_stage (v : Option Dp) : (s.setDp v).stage = s.stage := rfl
@[simp] theorem State.setDp_draws (v : Option Dp) : (s.setDp v).draws = s.draws := rfl
@[simp] theorem State.setDp_agenda (v : Option Dp) : (s.setDp v).agenda = s.agenda := rfl
@[simp] theorem State.setDp_hostData (v : Option Dp) : (s.setDp v).hostData = s.hostData := rfl

@[simp] theorem State.setCands_params (v : List Cand) : (s.setCands v).params = s.params := rfl
@[simp] theorem State.setCands_ctrl (v : List Cand) : (s.setCands v).ctrl = s.ctrl := rfl
@[simp] theorem State.setCands_status (v : List Cand) : (s.setCands v).status = s.status := rfl
@[simp] theorem State.setCands_opnd (v : List Cand) : (s.setCands v).opnd = s.opnd := rfl
@[simp] theorem State.setCands_res (v : List Cand) : (s.setCands v).res = s.res := rfl
@[simp] theorem State.setCands_cmd (v : List Cand) : (s.setCands v).cmd = s.cmd := rfl
@[simp] theorem State.setCands_dec (v : List Cand) : (s.setCands v).dec = s.dec := rfl
@[simp] theorem State.setCands_enc (v : List Cand) : (s.setCands v).enc = s.enc := rfl
@[simp] theorem State.setCands_dp (v : List Cand) : (s.setCands v).dp = s.dp := rfl
@[simp] theorem State.setCands_cands (v : List Cand) : (s.setCands v).cands = v := rfl
@[simp] theorem State.setCands_seq (v : List Cand) : (s.setCands v).seq = s.seq := rfl
@[simp] theorem State.setCands_inMem (v : List Cand) : (s.setCands v).inMem = s.inMem := rfl
@[simp] theorem State.setCands_outMem (v : List Cand) : (s.setCands v).outMem = s.outMem := rfl
@[simp] theorem State.setCands_stage (v : List Cand) : (s.setCands v).stage = s.stage := rfl
@[simp] theorem State.setCands_draws (v : List Cand) : (s.setCands v).draws = s.draws := rfl
@[simp] theorem State.setCands_agenda (v : List Cand) : (s.setCands v).agenda = s.agenda := rfl
@[simp] theorem State.setCands_hostData (v : List Cand) : (s.setCands v).hostData = s.hostData := rfl

@[simp] theorem State.setSeq_params (v : List Token) : (s.setSeq v).params = s.params := rfl
@[simp] theorem State.setSeq_ctrl (v : List Token) : (s.setSeq v).ctrl = s.ctrl := rfl
@[simp] theorem State.setSeq_status (v : List Token) : (s.setSeq v).status = s.status := rfl
@[simp] theorem State.setSeq_opnd (v : List Token) : (s.setSeq v).opnd = s.opnd := rfl
@[simp] theorem State.setSeq_res (v : List Token) : (s.setSeq v).res = s.res := rfl
@[simp] theorem State.setSeq_cmd (v : List Token) : (s.setSeq v).cmd = s.cmd := rfl
@[simp] theorem State.setSeq_dec (v : List Token) : (s.setSeq v).dec = s.dec := rfl
@[simp] theorem State.setSeq_enc (v : List Token) : (s.setSeq v).enc = s.enc := rfl
@[simp] theorem State.setSeq_dp (v : List Token) : (s.setSeq v).dp = s.dp := rfl
@[simp] theorem State.setSeq_cands (v : List Token) : (s.setSeq v).cands = s.cands := rfl
@[simp] theorem State.setSeq_seq (v : List Token) : (s.setSeq v).seq = v := rfl
@[simp] theorem State.setSeq_inMem (v : List Token) : (s.setSeq v).inMem = s.inMem := rfl
@[simp] theorem State.setSeq_outMem (v : List Token) : (s.setSeq v).outMem = s.outMem := rfl
@[simp] theorem State.setSeq_stage (v : List Token) : (s.setSeq v).stage = s.stage := rfl
@[simp] theorem State.setSeq_draws (v : List Token) : (s.setSeq v).draws = s.draws := rfl
@[simp] theorem State.setSeq_agenda (v : List Token) : (s.setSeq v).agenda = s.agenda := rfl
@[simp] theorem State.setSeq_hostData (v : List Token) : (s.setSeq v).hostData = s.hostData := rfl

@[simp] theorem State.setIn_params (v : Memory) : (s.setIn v).params = s.params := rfl
@[simp] theorem State.setIn_ctrl (v : Memory) : (s.setIn v).ctrl = s.ctrl := rfl
@[simp] theorem State.setIn_status (v : Memory) : (s.setIn v).status = s.status := rfl
@[simp] theorem State.setIn_opnd (v : Memory) : (s.setIn v).opnd = s.opnd := rfl
@[simp] theorem State.setIn_res (v : Memory) : (s.setIn v).res = s.res := rfl
@[simp] theorem State.setIn_cmd (v : Memory) : (s.setIn v).cmd = s.cmd := rfl
@[simp] theorem State.setIn_dec (v : Memory) : (s.setIn v).dec = s.dec := rfl
@[simp] theorem State.setIn_enc (v : Memory) : (s.setIn v).enc = s.enc := rfl
@[simp] theorem State.setIn_dp (v : Memory) : (s.setIn v).dp = s.dp := rfl
@[simp] theorem State.setIn_cands (v : Memory) : (s.setIn v).cands = s.cands := rfl
@[simp] theorem State.setIn_seq (v : Memory) : (s.setIn v).seq = s.seq := rfl
@[simp] theorem State.setIn_inMem (v : Memory) : (s.setIn v).inMem = v := rfl
@[simp] theorem State.setIn_outMem (v : Memory) : (s.setIn v).outMem = s.outMem := rfl
@[simp] theorem State.setIn_stage (v : Memory) : (s.setIn v).stage = s.stage := rfl
@[simp] theorem State.setIn_draws (v : Memory) : (s.setIn v).draws = s.draws := rfl
@[simp] theorem State.setIn_agenda (v : Memory) : (s.setIn v).agenda = s.agenda := rfl
@[simp] theorem State.setIn_hostData (v : Memory) : (s.setIn v).hostData = s.hostData := rfl

@[simp] theorem State.setOut_params (v : Memory) : (s.setOut v).params = s.params := rfl
@[simp] theorem State.setOut_ctrl (v : Memory) : (s.setOut v).ctrl = s.ctrl := rfl
@[simp] theorem State.setOut_status (v : Memory) : (s.setOut v).status = s.status := rfl
@[simp] theorem State.setOut_opnd (v : Memory) : (s.setOut v).opnd = s.opnd := rfl
@[simp] theorem State.setOut_res (v : Memory) : (s.setOut v).res = s.res := rfl
@[simp] theorem State.setOut_cmd (v : Memory) : (s.setOut v).cmd = s.cmd := rfl
@[simp] theorem State.setOut_dec (v : Memory) : (s.setOut v).dec = s.dec := rfl
@[simp] theorem State.setOut_enc (v : Memory) : (s.setOut v).enc = s.enc := rfl
@[simp] theorem State.setOut_dp (v : Memory) : (s.setOut v).dp = s.dp := rfl
@[simp] theorem State.setOut_cands (v : Memory) : (s.setOut v).cands = s.cands := rfl
@[simp] theorem State.setOut_seq (v : Memory) : (s.setOut v).seq = s.seq := rfl
@[simp] theorem State.setOut_inMem (v : Memory) : (s.setOut v).inMem = s.inMem := rfl
@[simp] theorem State.setOut_outMem (v : Memory) : (s.setOut v).outMem = v := rfl
@[simp] theorem State.setOut_stage (v : Memory) : (s.setOut v).stage = s.stage := rfl
@[simp] theorem State.setOut_draws (v : Memory) : (s.setOut v).draws = s.draws := rfl
@[simp] theorem State.setOut_agenda (v : Memory) : (s.setOut v).agenda = s.agenda := rfl
@[simp] theorem State.setOut_hostData (v : Memory) : (s.setOut v).hostData = s.hostData := rfl

@[simp] theorem State.setStage_params (v : Stage) : (s.setStage v).params = s.params := rfl
@[simp] theorem State.setStage_ctrl (v : Stage) : (s.setStage v).ctrl = s.ctrl := rfl
@[simp] theorem State.setStage_status (v : Stage) : (s.setStage v).status = s.status := rfl
@[simp] theorem State.setStage_opnd (v : Stage) : (s.setStage v).opnd = s.opnd := rfl
@[simp] theorem State.setStage_res (v : Stage) : (s.setStage v).res = s.res := rfl
@[simp] theorem State.setStage_cmd (v : Stage) : (s.setStage v).cmd = s.cmd := rfl
@[simp] theorem State.setStage_dec (v : Stage) : (s.setStage v).dec = s.dec := rfl
@[simp] theorem State.setStage_enc (v : Stage) : (s.setStage v).enc = s.enc := rfl
@[simp] theorem State.setStage_dp (v : Stage) : (s.setStage v).dp = s.dp := rfl
@[simp] theorem State.setStage_cands (v : Stage) : (s.setStage v).cands = s.cands := rfl
@[simp] theorem State.setStage_seq (v : Stage) : (s.setStage v).seq = s.seq := rfl
@[simp] theorem State.setStage_inMem (v : Stage) : (s.setStage v).inMem = s.inMem := rfl
@[simp] theorem State.setStage_outMem (v : Stage) : (s.setStage v).outMem = s.outMem := rfl
@[simp] theorem State.setStage_stage (v : Stage) : (s.setStage v).stage = v := rfl
@[simp] theorem State.setStage_draws (v : Stage) : (s.setStage v).draws = s.draws := rfl
@[simp] theorem State.setStage_agenda (v : Stage) : (s.setStage v).agenda = s.agenda := rfl
@[simp] theorem State.setStage_hostData (v : Stage) : (s.setStage v).hostData = s.hostData := rfl

@[simp] theorem State.setDraws_params (v : Nat) : (s.setDraws v).params = s.params := rfl
@[simp] theorem State.setDraws_ctrl (v : Nat) : (s.setDraws v).ctrl = s.ctrl := rfl
@[simp] theorem State.setDraws_status (v : Nat) : (s.setDraws v).status = s.status := rfl
@[simp] theorem State.setDraws_opnd (v : Nat) : (s.setDraws v).opnd = s.opnd := rfl
@[simp] theorem State.setDraws_res (v : Nat) : (s.setDraws v).res = s.res := rfl
@[simp] theorem State.setDraws_cmd (v : Nat) : (s.setDraws v).cmd = s.cmd := rfl
@[simp] theorem State.setDraws_dec (v : Nat) : (s.setDraws v).dec = s.dec := rfl
@[simp] theorem State.setDraws_enc (v : Nat) : (s.setDraws v).enc = s.enc := rfl
@[simp] theorem State.setDraws_dp (v : Nat) : (s.setDraws v).dp = s.dp := rfl
@[simp] theorem State.setDraws_cands (v : Nat) : (s.setDraws v).cands = s.cands := rfl
@[simp] theorem State.setDraws_seq (v : Nat) : (s.setDraws v).seq = s.seq := rfl
@[simp] theorem State.setDraws_inMem (v : Nat) : (s.setDraws v).inMem = s.inMem := rfl
@[simp] theorem State.setDraws_outMem (v : Nat) : (s.setDraws v).outMem = s.outMem := rfl
@[simp] theorem State.setDraws_stage (v : Nat) : (s.setDraws v).stage = s.stage := rfl
@[simp] theorem State.setDraws_draws (v : Nat) : (s.setDraws v).draws = v := rfl
@[simp] theorem State.setDraws_agenda (v : Nat) : (s.setDraws v).agenda = s.agenda := rfl
@[simp] theorem State.setDraws_hostData (v : Nat) : (s.setDraws v).hostData = s.hostData := rfl

@[simp] theorem State.setAgenda_params (v : List Event) : (s.setAgenda v).params = s.params := rfl
@[simp] theorem State.setAgenda_ctrl (v : List Event) : (s.setAgenda v).ctrl = s.ctrl := rfl
@[simp] theorem State.setAgenda_status (v : List Event) : (s.setAgenda v).status = s.status := rfl
@[simp] theorem State.setAgenda_opnd (v : List Event) : (s.setAgenda v).opnd = s.opnd := rfl
@[simp] theorem State.setAgenda_res (v : List Event) : (s.setAgenda v).res = s.res := rfl
@[simp] theorem State.setAgenda_cmd (v : List Event) : (s.setAgenda v).cmd = s.cmd := rfl
@[simp] theorem State.setAgenda_dec (v : List Event) : (s.setAgenda v).dec = s.dec := rfl
@[simp] theorem State.setAgenda_enc (v : List Event) : (s.setAgenda v).enc = s.enc := rfl
@[simp] theorem State.setAgenda_dp (v : List Event) : (s.setAgenda v).dp = s.dp := rfl
@[simp] theorem State.setAgenda_cands (v : List Event) : (s.setAgenda v).cands = s.cands := rfl
@[simp] theorem State.setAgenda_seq (v : List Event) : (s.setAgenda v).seq = s.seq := rfl
@[simp] theorem State.setAgenda_inMem (v : List Event) : (s.setAgenda v).inMem = s.inMem := rfl
@[simp] theorem State.setAgenda_outMem (v : List Event) : (s.setAgenda v).outMem = s.outMem := rfl
@[simp] theorem State.setAgenda_stage (v : List Event) : (s.setAgenda v).stage = s.stage := rfl
@[simp] theorem State.setAgenda_draws (v : List Event) : (s.setAgenda v).draws = s.draws := rfl
@[simp] theorem State.setAgenda_agenda (v : List Event) : (s.setAgenda v).agenda = v := rfl
@[simp] theorem State.setAgenda_hostData (v : List Event) : (s.setAgenda v).hostData = s.hostData := rfl

@[simp] theorem State.setHostData_params (v : HostData) : (s.setHostData v).params = s.params := rfl
@[simp] theorem State.setHostData_ctrl (v : HostData) : (s.setHostData v).ctrl = s.ctrl := rfl
@[simp] theorem State.setHostData_status (v : HostData) : (s.setHostData v).status = s.status := rfl
@[simp] theorem State.setHostData_opnd (v : HostData) : (s.setHostData v).opnd = s.opnd := rfl
@[simp] theorem State.setHostData_res (v : HostData) : (s.setHostData v).res = s.res := rfl
@[simp] theorem State.setHostData_cmd (v : HostData) : (s.setHostData v).cmd = s.cmd := rfl
@[simp] theorem State.setHostData_dec (v : HostData) : (s.setHostData v).dec = s.dec := rfl
@[simp] theorem State.setHostData_enc (v : HostData) : (s.setHostData v).enc = s.enc := rfl
@[simp] theorem State.setHostData_dp (v : HostData) : (s.setHostData v).dp = s.dp := rfl
@[simp] theorem State.setHostData_cands (v : HostData) : (s.setHostData v).cands = s.cands := rfl
@[simp] theorem State.setHostData_seq (v : HostData) : (s.setHostData v).seq = s.seq := rfl
@[simp] theorem State.setHostData_inMem (v : HostData) : (s.setHostData v).inMem = s.inMem := rfl
@[simp] theorem State.setHostData_outMem (v : HostData) : (s.setHostData v).outMem = s.outMem := rfl
@[simp] theorem State.setHostData_stage (v : HostData) : (s.setHostData v).stage = s.stage := rfl
@[simp] theorem State.setHostData_draws (v : HostData) : (s.setHostData v).draws = s.draws := rfl
@[simp] theorem State.setHostData_agenda (v : HostData) : (s.setHostData v).agenda = s.agenda := rfl
@[simp] theorem State.setHostData_hostData (v : HostData) : (s.setHostData v).hostData = v := rfl

@[simp] theorem State.release_params : (s.release).params = s.params := rfl
@[simp] theorem State.release_ctrl : (s.release).ctrl = s.ctrl := rfl
@[simp] theorem State.release_status : (s.release).status = s.status := rfl
@[simp] theorem State.release_opnd : (s.release).opnd = s.opnd := rfl
@[simp] theorem State.release_res : (s.release).res = s.res := rfl
@[simp] theorem State.release_cmd : (s.release).cmd = s.cmd := rfl
@[simp] theorem State.release_dec : (s.release).dec = releasedDec s.draws := rfl
@[simp] theorem State.release_enc : (s.release).enc = releasedEnc s.draws := rfl
@[simp] theorem State.release_dp : (s.release).dp = none := rfl
@[simp] theorem State.release_cands : (s.release).cands = [] := rfl
@[simp] theorem State.release_seq : (s.release).seq = [] := rfl
@[simp] theorem State.release_inMem : (s.release).inMem = s.inMem := rfl
@[simp] theorem State.release_outMem : (s.release).outMem = s.outMem := rfl
@[simp] theorem State.release_stage : (s.release).stage = .command := rfl
@[simp] theorem State.release_draws : (s.release).draws = s.draws + 1 := rfl
@[simp] theorem State.release_agenda : (s.release).agenda = s.agenda := rfl
@[simp] theorem State.release_hostData : (s.release).hostData = s.hostData := rfl

@[simp] theorem State.complete_params (a b c : Nat) : (s.complete a b c).params = s.params := rfl
@[simp] theorem State.complete_ctrl (a b c : Nat) : (s.complete a b c).ctrl = s.ctrl := rfl
@[simp] theorem State.complete_status (a b c : Nat) : (s.complete a b c).status = statusDone := rfl
@[simp] theorem State.complete_opnd (a b c : Nat) : (s.complete a b c).opnd = s.opnd := rfl
@[simp] theorem State.complete_res (a b c : Nat) : (s.complete a b c).res = ⟨u32 a, u32 b, u32 c, 0#32⟩ := rfl
@[simp] theorem State.complete_cmd (a b c : Nat) : (s.complete a b c).cmd = s.cmd := rfl
@[simp] theorem State.complete_dec (a b c : Nat) : (s.complete a b c).dec = releasedDec s.draws := rfl
@[simp] theorem State.complete_enc (a b c : Nat) : (s.complete a b c).enc = releasedEnc s.draws := rfl
@[simp] theorem State.complete_dp (a b c : Nat) : (s.complete a b c).dp = none := rfl
@[simp] theorem State.complete_cands (a b c : Nat) : (s.complete a b c).cands = [] := rfl
@[simp] theorem State.complete_seq (a b c : Nat) : (s.complete a b c).seq = [] := rfl
@[simp] theorem State.complete_inMem (a b c : Nat) : (s.complete a b c).inMem = s.inMem := rfl
@[simp] theorem State.complete_outMem (a b c : Nat) : (s.complete a b c).outMem = s.outMem := rfl
@[simp] theorem State.complete_stage (a b c : Nat) : (s.complete a b c).stage = .command := rfl
@[simp] theorem State.complete_draws (a b c : Nat) : (s.complete a b c).draws = s.draws + 1 := rfl
@[simp] theorem State.complete_agenda (a b c : Nat) : (s.complete a b c).agenda = s.agenda := rfl
@[simp] theorem State.complete_hostData (a b c : Nat) : (s.complete a b c).hostData = s.hostData := rfl

@[simp] theorem State.errorEntry_params (e : ErrCode) (o : Nat) : (s.errorEntry e o).params = s.params := rfl
@[simp] theorem State.errorEntry_ctrl (e : ErrCode) (o : Nat) : (s.errorEntry e o).ctrl = s.ctrl := rfl
@[simp] theorem State.errorEntry_status (e : ErrCode) (o : Nat) : (s.errorEntry e o).status = statusErr e := rfl
@[simp] theorem State.errorEntry_opnd (e : ErrCode) (o : Nat) : (s.errorEntry e o).opnd = s.opnd := rfl
@[simp] theorem State.errorEntry_res (e : ErrCode) (o : Nat) : (s.errorEntry e o).res = ⟨0#32, 0#32, 0#32, u32 o⟩ := rfl
@[simp] theorem State.errorEntry_cmd (e : ErrCode) (o : Nat) : (s.errorEntry e o).cmd = s.cmd := rfl
@[simp] theorem State.errorEntry_dec (e : ErrCode) (o : Nat) : (s.errorEntry e o).dec = releasedDec s.draws := rfl
@[simp] theorem State.errorEntry_enc (e : ErrCode) (o : Nat) : (s.errorEntry e o).enc = releasedEnc s.draws := rfl
@[simp] theorem State.errorEntry_dp (e : ErrCode) (o : Nat) : (s.errorEntry e o).dp = none := rfl
@[simp] theorem State.errorEntry_cands (e : ErrCode) (o : Nat) : (s.errorEntry e o).cands = [] := rfl
@[simp] theorem State.errorEntry_seq (e : ErrCode) (o : Nat) : (s.errorEntry e o).seq = [] := rfl
@[simp] theorem State.errorEntry_inMem (e : ErrCode) (o : Nat) : (s.errorEntry e o).inMem = s.inMem := rfl
@[simp] theorem State.errorEntry_outMem (e : ErrCode) (o : Nat) : (s.errorEntry e o).outMem = s.outMem := rfl
@[simp] theorem State.errorEntry_stage (e : ErrCode) (o : Nat) : (s.errorEntry e o).stage = .command := rfl
@[simp] theorem State.errorEntry_draws (e : ErrCode) (o : Nat) : (s.errorEntry e o).draws = s.draws + 1 := rfl
@[simp] theorem State.errorEntry_agenda (e : ErrCode) (o : Nat) : (s.errorEntry e o).agenda = s.agenda := rfl
@[simp] theorem State.errorEntry_hostData (e : ErrCode) (o : Nat) : (s.errorEntry e o).hostData = s.hostData := rfl

@[simp] theorem State.streamError_params (e : ErrCode) (o : Nat) : (s.streamError e o).params = s.params := rfl
@[simp] theorem State.streamError_ctrl (e : ErrCode) (o : Nat) : (s.streamError e o).ctrl = s.ctrl := rfl
@[simp] theorem State.streamError_status (e : ErrCode) (o : Nat) : (s.streamError e o).status = statusErr e := rfl
@[simp] theorem State.streamError_opnd (e : ErrCode) (o : Nat) : (s.streamError e o).opnd = s.opnd := rfl
@[simp] theorem State.streamError_res (e : ErrCode) (o : Nat) : (s.streamError e o).res = ⟨0#32, 0#32, 0#32, u32 o⟩ := rfl
@[simp] theorem State.streamError_cmd (e : ErrCode) (o : Nat) : (s.streamError e o).cmd = s.cmd := rfl
@[simp] theorem State.streamError_dec (e : ErrCode) (o : Nat) : (s.streamError e o).dec = releasedDec s.draws := rfl
@[simp] theorem State.streamError_enc (e : ErrCode) (o : Nat) : (s.streamError e o).enc = releasedEnc s.draws := rfl
@[simp] theorem State.streamError_dp (e : ErrCode) (o : Nat) : (s.streamError e o).dp = none := rfl
@[simp] theorem State.streamError_cands (e : ErrCode) (o : Nat) : (s.streamError e o).cands = [] := rfl
@[simp] theorem State.streamError_seq (e : ErrCode) (o : Nat) : (s.streamError e o).seq = [] := rfl
@[simp] theorem State.streamError_inMem (e : ErrCode) (o : Nat) : (s.streamError e o).inMem = s.inMem := rfl
@[simp] theorem State.streamError_outMem (e : ErrCode) (o : Nat) : (s.streamError e o).outMem = s.outMem.drawBelow s.draws s.dec.size.toNat := rfl
@[simp] theorem State.streamError_stage (e : ErrCode) (o : Nat) : (s.streamError e o).stage = .command := rfl
@[simp] theorem State.streamError_draws (e : ErrCode) (o : Nat) : (s.streamError e o).draws = s.draws + 1 := rfl
@[simp] theorem State.streamError_agenda (e : ErrCode) (o : Nat) : (s.streamError e o).agenda = s.agenda := rfl
@[simp] theorem State.streamError_hostData (e : ErrCode) (o : Nat) : (s.streamError e o).hostData = s.hostData := rfl

@[simp] theorem State.emit_params (bs : List Byte) : (s.emit bs).params = s.params := rfl
@[simp] theorem State.emit_ctrl (bs : List Byte) : (s.emit bs).ctrl = s.ctrl := rfl
@[simp] theorem State.emit_status (bs : List Byte) : (s.emit bs).status = s.status := rfl
@[simp] theorem State.emit_opnd (bs : List Byte) : (s.emit bs).opnd = s.opnd := rfl
@[simp] theorem State.emit_res (bs : List Byte) : (s.emit bs).res = s.res := rfl
@[simp] theorem State.emit_cmd (bs : List Byte) : (s.emit bs).cmd = s.cmd := rfl
@[simp] theorem State.emit_dec (bs : List Byte) : (s.emit bs).dec = s.dec := rfl
@[simp] theorem State.emit_enc (bs : List Byte) : (s.emit bs).enc = { s.enc with wrptr := s.enc.wrptr + u32 bs.length } := rfl
@[simp] theorem State.emit_dp (bs : List Byte) : (s.emit bs).dp = s.dp := rfl
@[simp] theorem State.emit_cands (bs : List Byte) : (s.emit bs).cands = s.cands := rfl
@[simp] theorem State.emit_seq (bs : List Byte) : (s.emit bs).seq = s.seq := rfl
@[simp] theorem State.emit_inMem (bs : List Byte) : (s.emit bs).inMem = s.inMem := rfl
@[simp] theorem State.emit_outMem (bs : List Byte) : (s.emit bs).outMem = s.outMem.writeBytes s.enc.wrptr.toNat bs := rfl
@[simp] theorem State.emit_stage (bs : List Byte) : (s.emit bs).stage = s.stage := rfl
@[simp] theorem State.emit_draws (bs : List Byte) : (s.emit bs).draws = s.draws := rfl
@[simp] theorem State.emit_agenda (bs : List Byte) : (s.emit bs).agenda = s.agenda := rfl
@[simp] theorem State.emit_hostData (bs : List Byte) : (s.emit bs).hostData = s.hostData := rfl

@[simp] theorem State.acceptStart_params (w : Word) : (s.acceptStart w).params = s.params := rfl
@[simp] theorem State.acceptStart_ctrl (w : Word) : (s.acceptStart w).ctrl = ⟨ctrlOp w, ctrlFraming w, ctrlPreserve w⟩ := rfl
@[simp] theorem State.acceptStart_status (w : Word) : (s.acceptStart w).status = statusBusy := rfl
@[simp] theorem State.acceptStart_opnd (w : Word) : (s.acceptStart w).opnd = s.opnd := rfl
@[simp] theorem State.acceptStart_res (w : Word) : (s.acceptStart w).res = s.res := rfl
@[simp] theorem State.acceptStart_cmd (w : Word) : (s.acceptStart w).cmd = ⟨ctrlOp w, ctrlFraming w, ctrlPreserve w, s.opnd.scheme, s.opnd.inLen, s.opnd.findPos,
      s.opnd.priceLen, s.opnd.priceDisp⟩ := rfl
@[simp] theorem State.acceptStart_dec (w : Word) : (s.acceptStart w).dec = s.dec := rfl
@[simp] theorem State.acceptStart_enc (w : Word) : (s.acceptStart w).enc = s.enc := rfl
@[simp] theorem State.acceptStart_dp (w : Word) : (s.acceptStart w).dp = s.dp := rfl
@[simp] theorem State.acceptStart_cands (w : Word) : (s.acceptStart w).cands = s.cands := rfl
@[simp] theorem State.acceptStart_seq (w : Word) : (s.acceptStart w).seq = s.seq := rfl
@[simp] theorem State.acceptStart_inMem (w : Word) : (s.acceptStart w).inMem = s.inMem := rfl
@[simp] theorem State.acceptStart_outMem (w : Word) : (s.acceptStart w).outMem = s.outMem := rfl
@[simp] theorem State.acceptStart_stage (w : Word) : (s.acceptStart w).stage = .command := rfl
@[simp] theorem State.acceptStart_draws (w : Word) : (s.acceptStart w).draws = s.draws := rfl
@[simp] theorem State.acceptStart_agenda (w : Word) : (s.acceptStart w).agenda = s.agenda := rfl
@[simp] theorem State.acceptStart_hostData (w : Word) : (s.acceptStart w).hostData = s.hostData := rfl

end Sys2Proof.Machine
end

