-- ==== Sys2Proof/Laws/Memory.lean ====
section
/-! SUPPORT. Byte memory: a read after a write, the canonical form and the capacity, for every memory operation. -/

namespace Sys2Proof.Machine

/-! ## Cells -/

theorem lookupCell_insertCell_same (a : Nat) (v : Byte) (l : List Host.Cell) :
    lookupCell a (insertCell a v l) = some v := by
  induction l with
  | nil => simp [insertCell, lookupCell]
  | cons c t ih =>
    obtain ⟨b, w⟩ := c
    simp only [insertCell]
    split
    · simp [lookupCell]
    · split
      · simp [lookupCell]
      · rename_i h1 h2; simp [lookupCell, h2, ih]

theorem lookupCell_insertCell_ne {a b : Nat} (v : Byte) (h : b ≠ a) (l : List Host.Cell) :
    lookupCell b (insertCell a v l) = lookupCell b l := by
  induction l with
  | nil => simp [insertCell, lookupCell, h]
  | cons c t ih =>
    obtain ⟨x, w⟩ := c
    simp only [insertCell]
    split
    · simp [lookupCell, h]
    · split
      · rename_i h1 h2; subst h2; simp [lookupCell, h]
      · simp [lookupCell, ih]

theorem risingFrom_mono {lo : Option Nat} {a : Nat} {l : List Host.Cell} (h : risingFrom (some a) l = true)
    (hlo : ∀ x, lo = some x → x ≤ a) : risingFrom lo l = true := by
  cases l with
  | nil => cases lo <;> rfl
  | cons c t =>
    obtain ⟨b, w⟩ := c
    simp only [risingFrom, Bool.and_eq_true, decide_eq_true_eq] at h
    cases lo with
    | none => simpa [risingFrom] using h.2
    | some x => simp [risingFrom, h.2]; exact lt_of_le_of_lt (hlo x rfl) h.1

theorem risingFrom_insertCell (a : Nat) (v : Byte) (l : List Host.Cell) (lo : Option Nat)
    (h : risingFrom lo l = true) (hlo : ∀ x, lo = some x → x < a) : risingFrom lo (insertCell a v l) = true := by
  induction l generalizing lo with
  | nil => cases lo <;> simp_all [insertCell, risingFrom]
  | cons c t ih =>
    obtain ⟨b, w⟩ := c
    have tail : risingFrom (some b) t = true := by cases lo <;> simp_all [risingFrom]
    simp only [insertCell]
    split
    · cases lo <;> simp_all [risingFrom]
    · split
      · rename_i h1 h2; subst h2; cases lo <;> simp_all [risingFrom]
      · rename_i h1 h2
        have := ih (some b) tail (by intro x hx; cases hx; omega)
        cases lo <;> simp_all [risingFrom]

theorem mem_insertCell {a : Nat} {v : Byte} {l : List Host.Cell} {c : Host.Cell} (h : c ∈ insertCell a v l) :
    c = (a, v) ∨ c ∈ l := by
  induction l with
  | nil => simpa [insertCell] using h
  | cons d t ih =>
    obtain ⟨b, w⟩ := d
    simp only [insertCell] at h
    split at h
    · simpa using h
    · split at h
      · rcases List.mem_cons.1 h with h | h
        · exact .inl h
        · exact .inr (List.mem_cons_of_mem _ h)
      · rcases List.mem_cons.1 h with h | h
        · exact .inr (h ▸ List.mem_cons_self)
        · rcases ih h with h | h
          · exact .inl h
          · exact .inr (List.mem_cons_of_mem _ h)

/-! ## One byte -/

@[simp] theorem Memory.read_write_same (m : Memory) (a : Nat) (v : Byte) : (m.write a v).read a = v := by
  simp [Memory.read, Memory.write, lookupCell_insertCell_same]

theorem Memory.read_write_ne (m : Memory) {a b : Nat} (v : Byte) (h : b ≠ a) : (m.write a v).read b = m.read b := by
  simp [Memory.read, Memory.write, lookupCell_insertCell_ne v h, Memory.unlisted]

theorem Memory.read_write (m : Memory) (a b : Nat) (v : Byte) :
    (m.write a v).read b = if b = a then v else m.read b := by
  split
  · rename_i h; subst h; simp
  · rename_i h; exact Memory.read_write_ne m v h

@[simp] theorem Memory.epoch_write (m : Memory) (a : Nat) (v : Byte) : (m.write a v).epoch = m.epoch := rfl

theorem Memory.wf_write {m : Memory} (a : Nat) (v : Byte) (h : m.wf = true) : (m.write a v).wf = true :=
  risingFrom_insertCell a v m.cells none h (by simp)

theorem Memory.below_write {m : Memory} {a cap : Nat} (v : Byte) (h : m.below cap = true) (ha : a < cap) :
    (m.write a v).below cap = true := by
  simp only [Memory.below, List.all_eq_true, decide_eq_true_eq] at *
  intro c hc
  rcases mem_insertCell hc with rfl | hc
  · exact ha
  · exact h c hc

/-! ## Many bytes -/

@[simp] theorem Memory.length_readBytes (m : Memory) (a n : Nat) : (m.readBytes a n).length = n := by
  induction n generalizing a with
  | zero => rfl
  | succ n ih => simp [Memory.readBytes, ih]

theorem Memory.getElem?_readBytes (m : Memory) (a : Nat) {n k : Nat} (h : k < n) :
    (m.readBytes a n)[k]? = some (m.read (a + k)) := by
  induction n generalizing a k with
  | zero => omega
  | succ n ih =>
    cases k with
    | zero => simp [Memory.readBytes]
    | succ k =>
      simp only [Memory.readBytes, List.getElem?_cons_succ]
      rw [ih (a + 1) (by omega)]
      congr 2
      omega

theorem Memory.read_writeBytes_outside (m : Memory) (a : Nat) (bs : List Byte) {b : Nat}
    (h : b < a ∨ a + bs.length ≤ b) : (m.writeBytes a bs).read b = m.read b := by
  induction bs generalizing m a with
  | nil => rfl
  | cons x xs ih =>
    simp only [Memory.writeBytes, List.length_cons] at *
    rw [ih (m.write a x) (a + 1) (by omega)]
    exact Memory.read_write_ne m x (by omega)

theorem Memory.read_writeBytes_inside (m : Memory) (a : Nat) (bs : List Byte) {k : Nat} (h : k < bs.length) :
    some ((m.writeBytes a bs).read (a + k)) = bs[k]? := by
  induction bs generalizing m a k with
  | nil => simp at h
  | cons x xs ih =>
    simp only [Memory.writeBytes]
    cases k with
    | zero =>
      show some (((m.write a x).writeBytes (a + 1) xs).read a) = some x
      rw [Memory.read_writeBytes_outside (m.write a x) (a + 1) xs (.inl (Nat.lt_succ_self a))]
      simp
    | succ k =>
      have := ih (m.write a x) (a + 1) (k := k) (by simpa using h)
      simpa [Nat.add_assoc, Nat.add_comm 1 k] using this

theorem Memory.writeBytes_append (m : Memory) (a : Nat) (xs ys : List Byte) :
    m.writeBytes a (xs ++ ys) = (m.writeBytes a xs).writeBytes (a + xs.length) ys := by
  induction xs generalizing m a with
  | nil => rfl
  | cons x xs ih =>
    simp only [List.cons_append, Memory.writeBytes, ih, List.length_cons]
    congr 1
    omega

theorem Memory.wf_writeBytes {m : Memory} (a : Nat) (bs : List Byte) (h : m.wf = true) :
    (m.writeBytes a bs).wf = true := by
  induction bs generalizing m a with
  | nil => exact h
  | cons x xs ih => exact ih (a + 1) (Memory.wf_write a x h)

theorem Memory.below_writeBytes {m : Memory} {a cap : Nat} {bs : List Byte} (h : m.below cap = true)
    (ha : a + bs.length ≤ cap) : (m.writeBytes a bs).below cap = true := by
  induction bs generalizing m a with
  | nil => exact h
  | cons x xs ih =>
    simp only [List.length_cons] at ha
    exact ih (Memory.below_write x h (by omega)) (by omega)

theorem Memory.read_drawBelow_outside (m : Memory) (k n : Nat) {a : Nat} (h : n ≤ a) :
    (m.drawBelow k n).read a = m.read a := by
  induction n with
  | zero => rfl
  | succ n ih =>
    simp only [Memory.drawBelow]
    rw [Memory.read_write_ne _ _ (by omega), ih (by omega)]

theorem Memory.wf_drawBelow {m : Memory} (k n : Nat) (h : m.wf = true) : (m.drawBelow k n).wf = true := by
  induction n with
  | zero => exact h
  | succ n ih => exact Memory.wf_write n _ ih

theorem Memory.below_drawBelow {m : Memory} {cap : Nat} (k : Nat) {n : Nat} (h : m.below cap = true)
    (hn : n ≤ cap) : (m.drawBelow k n).below cap = true := by
  induction n with
  | zero => exact h
  | succ n ih => exact Memory.below_write _ (ih (by omega)) (by omega)

/-! ## The copy of a match -/

theorem read_copyMatch_outside (pre : List Byte) (d l q : Nat) (m : Memory) {a : Nat} (h : a < q ∨ q + l ≤ a) :
    (copyMatch pre d l q m).read a = m.read a := by
  induction l generalizing q m with
  | zero => rfl
  | succ l ih =>
    simp only [copyMatch]
    rw [ih (q + 1) _ (by omega)]
    exact Memory.read_write_ne m _ (by omega)

theorem wf_copyMatch (pre : List Byte) (d l q : Nat) {m : Memory} (h : m.wf = true) :
    (copyMatch pre d l q m).wf = true := by
  induction l generalizing q m with
  | zero => exact h
  | succ l ih => exact ih (q + 1) (Memory.wf_write q _ h)

theorem below_copyMatch (pre : List Byte) (d : Nat) {l q cap : Nat} {m : Memory} (h : m.below cap = true)
    (hq : q + l ≤ cap) : (copyMatch pre d l q m).below cap = true := by
  induction l generalizing q m with
  | zero => exact h
  | succ l ih => exact ih (Memory.below_write _ h (by omega)) (by omega)

end Sys2Proof.Machine
end

