-- ==== Sys2Proof/Laws/Ops.lean ====
section
/-! SUPPORT. What each shared operation can do, said once: the engine's turn, the ends of a command, error entry with and without an
unspecified output, bytes emitted at WRPTR, the registry checks by scheme id, and the method tag lookups. -/

namespace Sys2Proof.Machine

/-! ## Outcomes -/

@[simp] theorem settle_ok (s t : State) : settle s (.ok t) = .next t := rfl

@[simp] theorem settle_raise (s : State) (e : ErrCode) (off : Nat) :
    settle s (.error (.raise e off)) = .next (s.errorEntry e off) := rfl

@[simp] theorem settle_refuse (s : State) (r : Refusal) : settle s (.error (.refuse r)) = .refused r := rfl

/-- A settled command ends as it says, or enters the error from where it started. -/
theorem settle_next {s t : State} {r : Except Stop State} (h : settle s r = .next t) :
    r = .ok t ∨ ∃ e off, r = .error (.raise e off) ∧ t = s.errorEntry e off := by
  match r, h with
  | .ok _, h => cases h; exact .inl rfl
  | .error (.raise e off), h => cases h; exact .inr ⟨e, off, rfl, rfl⟩
  | .error (.refuse _), h => cases h

/-- A settled command never faults. -/
theorem settle_not_fault (s : State) (r : Except Stop State) (f : Fault) : settle s r ≠ .fault f := by
  match r with
  | .ok _ => exact fun h => by cases h
  | .error (.raise _ _) => exact fun h => by cases h
  | .error (.refuse _) => exact fun h => by cases h

theorem andThen_next {o : Outcome} {f : State → Outcome} {u : State} (h : andThen o f = .next u) :
    ∃ t, o = .next t ∧ f t = .next u := by
  match o, h with
  | .next t, h => exact ⟨t, rfl, h⟩
  | .fault _, h => cases h
  | .refused _, h => cases h

/-! ## The engine's turn -/

/-- At whichever event the BUSY engine has its turn, the step is that turn, taken from where it moves. -/
theorem step_of_engineTurn {s u : State} (h : EngineTurn s u) (busy : s.status.busy = true) : step s = engineTurn u := by
  cases h with
  | nothingDue h => simp [step, h, engineOrIdle, busy]
  | engine rest h => simp [step, h, eventStep, engineOrIdle, busy]
  | wait rest h => simp [step, h, eventStep, waitEvent, busy]
  | internal rest h opened => simp [step, h, eventStep, internalEvent, engineOrIdle, busy, opened]

/-- The state the engine moves from differs from the one before in the agenda alone. -/
theorem EngineTurn.setAgenda_eq {s u : State} (h : EngineTurn s u) : ∃ ag, u = s.setAgenda ag := by
  cases h with
  | nothingDue _ => exact ⟨s.agenda, rfl⟩
  | engine rest _ => exact ⟨rest, rfl⟩
  | wait _ _ => exact ⟨s.agenda, rfl⟩
  | internal rest _ _ => exact ⟨rest, rfl⟩

/-! ## Ends of a command -/

theorem released_release (s : State) : Released s.release := ⟨rfl, rfl, rfl, rfl⟩

theorem complete_ends (s : State) (n a b : Nat) : EndsDone (s.complete n a b) n a b :=
  ⟨rfl, rfl, rfl, rfl, rfl, rfl, rfl, rfl, rfl⟩

theorem complete_keeps (s : State) (n a b : Nat) : Keeps s (s.complete n a b) := ⟨rfl, rfl, rfl, rfl, rfl, rfl, rfl⟩

theorem complete_workReleased (s : State) (n a b : Nat) : WorkReleased s (s.complete n a b) := ⟨rfl, rfl, rfl⟩

theorem errorEntry_workReleased (s : State) (e : ErrCode) (off : Nat) : WorkReleased s (s.errorEntry e off) :=
  ⟨rfl, rfl, rfl⟩

theorem streamError_workReleased (s : State) (e : ErrCode) (off : Nat) : WorkReleased s (s.streamError e off) :=
  ⟨rfl, rfl, rfl⟩

/-- Released registers are within their widths (R36, R38). -/
theorem releasedDec_bitsLeft (k : Nat) : (releasedDec k).bitsLeft ≤ 8 := Nat.le_of_lt_succ (Nat.mod_lt _ (by decide))

theorem releasedEnc_groupN (k : Nat) : (releasedEnc k).groupN ≤ 8 := Nat.le_of_lt_succ (Nat.mod_lt _ (by decide))

theorem errorEntry_entered (s : State) (e : ErrCode) (off : Nat) : ErrorEntered s (s.errorEntry e off) e off :=
  ⟨⟨rfl, rfl, rfl, rfl, rfl, rfl, rfl, rfl, rfl⟩, ⟨rfl, rfl, rfl, rfl, rfl, rfl, rfl⟩, fun _ => rfl⟩

theorem streamError_entered (s : State) (e : ErrCode) (off : Nat) :
    StreamErrorEntered s (s.streamError e off) e off :=
  ⟨⟨rfl, rfl, rfl, rfl, rfl, rfl, rfl, rfl, rfl⟩, ⟨rfl, rfl, rfl, rfl, rfl, rfl, rfl⟩,
    fun _ h => Memory.read_drawBelow_outside _ _ _ h⟩

/-- Every error code is one of 1 to 9 (R241). -/
theorem errCode_range (e : ErrCode) : 1 ≤ e.code.toNat ∧ e.code.toNat ≤ 9 := by cases e <;> decide

theorem statusBusy_legal : statusBusy.legal = true := by decide

theorem statusDone_legal : statusDone.legal = true := by decide

theorem statusErr_legal (e : ErrCode) : (statusErr e).legal = true := by cases e <;> decide

/-! ## Bytes emitted at WRPTR -/

theorem emit_holds (s : State) (bs : List Byte) : OutHolds (s.emit bs) s.enc.wrptr.toNat bs :=
  fun _ hk => (Memory.read_writeBytes_inside s.outMem s.enc.wrptr.toNat bs hk).symm

theorem emit_outside (s : State) (bs : List Byte) :
    SameOutOutside s.enc.wrptr.toNat (s.enc.wrptr.toNat + bs.length) s (s.emit bs) :=
  fun _ ha => Memory.read_writeBytes_outside _ _ _ ha

/-! ## Registry -/

theorem registry_unregistered {id : BitVec 4} (h : 5 ≤ id.toNat) : registry id = entryUnregistered := by
  have ne : ∀ i : BitVec 4, 5 ≤ i.toNat → i ≠ 0#4 ∧ i ≠ 1#4 ∧ i ≠ 2#4 ∧ i ≠ 3#4 ∧ i ≠ 4#4 := by decide
  obtain ⟨h0, h1, h2, h3, h4⟩ := ne id h
  simp [registry, h0, h1, h2, h3, h4]

theorem registry_noSource {id : BitVec 4} (h : 2 ≤ id.toNat) (h' : id.toNat ≤ 4) :
    ∃ n, registry id = entryNoSource n := by
  have ids : ∀ i : BitVec 4, 2 ≤ i.toNat → i.toNat ≤ 4 → i = 2#4 ∨ i = 3#4 ∨ i = 4#4 := by decide
  rcases ids id h h' with rfl | rfl | rfl <;> exact ⟨_, rfl⟩

theorem checkEntry_none : checkEntry (registry 0#4) = .ok entryNone := rfl

theorem checkEntry_lz10 : checkEntry (registry 1#4) = .ok entryLz10 := rfl

theorem checkEntry_unregistered {id : BitVec 4} (h : 5 ≤ id.toNat) :
    checkEntry (registry id) = .error (.raise .unsupportedScheme 0) := by
  rw [registry_unregistered h]; rfl

theorem checkEntry_noSource {id : BitVec 4} (h : 2 ≤ id.toNat) (h' : id.toNat ≤ 4) :
    checkEntry (registry id) = .error (.refuse .schemeNotInSource) := by
  obtain ⟨n, hn⟩ := registry_noSource h h'
  rw [hn]; rfl

/-- Every scheme id is one of the four classes of R23. -/
theorem schemeId_cases (id : BitVec 4) :
    id = 0#4 ∨ id = 1#4 ∨ (2 ≤ id.toNat ∧ id.toNat ≤ 4) ∨ 5 ≤ id.toNat := by
  revert id; decide

/-- LZ10 gets past the common checks of every command. -/
theorem commonChecks_lz10 {c : Command} {framing : Bool} {s : State} (hn : s.cmd.n.toNat ≤ s.params.inCap)
    (hs : s.cmd.scheme = 1#4) : commonChecks registry c framing s = .ok entryLz10 := by
  unfold commonChecks
  rw [if_neg (by omega), hs]
  cases c <;> cases framing <;> rfl

/-- Over any registry FIND, PRICE and PARSE admit every implemented, well-formed entry with a finder (R217). -/
theorem commonChecks_finder {reg : Registry} {c : Command} {framing : Bool} {s : State} (hc : c.usesFinder = true)
    (hn : s.cmd.n.toNat ≤ s.params.inCap) (registered : (reg s.cmd.scheme).registered = true)
    (implemented : (reg s.cmd.scheme).implemented = true) (hasFinder : (reg s.cmd.scheme).hasFinder = true)
    (wf : entryWf (reg s.cmd.scheme) = true) : commonChecks reg c framing s = .ok (reg s.cmd.scheme) := by
  unfold commonChecks checkEntry noneRejects
  rw [if_neg (by omega)]
  cases c <;> simp_all [takesMethodWord, Command.usesFinder, Command.usesCodec]

/-! ## Method tags -/

/-- The lookup answers a tag that maps to the scheme, and no lesser one from its start on does. -/
theorem leastMethodFrom_some {p : Params} {id : BitVec 4} {m k r : Nat} (h : leastMethodFrom p id m k = some r) :
    m ≤ r ∧ r < m + k ∧ (p.methodMap[r]?).join = some id ∧
      ∀ j, m ≤ j → j < r → (p.methodMap[j]?).join ≠ some id := by
  induction k generalizing m with
  | zero => cases h
  | succ k ih =>
    unfold leastMethodFrom at h
    split at h
    · next hm => cases h; exact ⟨Nat.le_refl _, by omega, hm, fun j _ _ => by omega⟩
    · next hm =>
      obtain ⟨h1, h2, h3, h4⟩ := ih h
      refine ⟨by omega, by omega, h3, fun j hj hjr => ?_⟩
      by_cases hjm : j = m
      · exact hjm ▸ hm
      · exact h4 j (by omega) hjr

theorem leastMethodFrom_none {p : Params} {id : BitVec 4} {m k : Nat} (h : leastMethodFrom p id m k = none) :
    ∀ j, m ≤ j → j < m + k → (p.methodMap[j]?).join ≠ some id := by
  induction k generalizing m with
  | zero => exact fun j _ _ => by omega
  | succ k ih =>
    unfold leastMethodFrom at h
    split at h
    · cases h
    · next hm =>
      intro j hj hjk
      by_cases hjm : j = m
      · exact hjm ▸ hm
      · exact ih h j (by omega) (by omega)

end Sys2Proof.Machine
end

