-- ==== Sys2Proof/Laws/PerInstr.lean ====
section
/-! SUPPORT. Statements about every instruction as syntax, one lemma per constructor: how many bytes its encoding has
(R91, R92, R97, R98, R110 to R112). -/

namespace Sys2Proof.Laws

/-- The bytes of each form. -/
def formLength : Form → Nat
  | .command => 4
  | .header16 => 16
  | .methodWord => 4
  | .control => 1
  | .literal => 1
  | .matchPair => 2
  | .record => 8
  | .candidate => 4

namespace EncodeLength

/-- An instruction's encoding has the bytes of its form. -/
def Statement (i : Instr) : Prop := (encode i).length = formLength i.form

theorem ctrlbyte (f : BitVec 8) : Statement (.ctrlbyte f) := rfl
theorem lit (v : BitVec 8) : Statement (.lit v) := rfl
theorem matchTok (l d : Nat) : Statement (.matchTok l d) := rfl
theorem hdr16 (t : BitVec 32) (r : BitVec 64) (z : BitVec 32) : Statement (.hdr16 t r z) := rfl
theorem mword (z : BitVec 29) (m : BitVec 3) : Statement (.mword z m) := rfl
theorem find (f p : Bool) : Statement (.find f p) := rfl
theorem price (f p : Bool) : Statement (.price f p) := rfl
theorem parse (f p : Bool) : Statement (.parse f p) := rfl
theorem encode (f p : Bool) : Statement (.encode f p) := rfl
theorem compress (f p : Bool) : Statement (.compress f p) := rfl
theorem decompress (f p : Bool) : Statement (.decompress f p) := rfl
theorem tokrecLit (v : BitVec 8) : Statement (.tokrecLit v) := rfl
theorem tokrecMatch (l d : BitVec 16) : Statement (.tokrecMatch l d) := rfl
theorem candrec (l d : BitVec 16) : Statement (.candrec l d) := rfl

end EncodeLength

end Sys2Proof.Laws
end

