-- ==== Sys2Proof/Tests/Slice0.lean ====
section
/-! SUPPORT. The model's own tests: ill-formed terms refused, words of the spec's encodings decoded, one step per
instruction with the results of 95_test_vectors.md, and for every statement with hypotheses a witness that meets them. -/

namespace Sys2Proof.Tests

open Sys2Proof Sys2Proof.Machine

/-! ## WellFormed refuses ill-formed terms (R92) -/

theorem test_wellFormed_refuses_length_2 : (Instr.matchTok 2 1).wellFormed = false := by decide
theorem test_wellFormed_refuses_length_19 : (Instr.matchTok 19 1).wellFormed = false := by decide
theorem test_wellFormed_refuses_displacement_0 : (Instr.matchTok 3 0).wellFormed = false := by decide
theorem test_wellFormed_refuses_displacement_4097 : (Instr.matchTok 3 4097).wellFormed = false := by decide

/-! ## Words written out from the spec's encodings -/

/-- R90: one byte. -/
theorem test_decode_ctrlbyte : decode .control [0x40#8] = .ok (.ctrlbyte 0x40#8, []) := by decide
/-- R91: one raw byte. -/
theorem test_decode_lit : decode .literal [0x41#8, 0x80#8] = .ok (.lit 0x41#8, [0x80#8]) := by decide
/-- W5: `FF FF` is Match(18, 4096) and `00 00` is Match(3, 1). -/
theorem test_decode_match : decode .matchPair [0xFF#8, 0xFF#8] = .ok (.matchTok 18 4096, []) ∧
    decode .matchPair [0#8, 0#8] = .ok (.matchTok 3 1, []) := by decide
/-- R93: displacement 0x123 + 1 has its high nibble in the first byte. -/
theorem test_decode_match_nibbles : decode .matchPair [0x51#8, 0x23#8] = .ok (.matchTok 8 0x124, []) := by decide
/-- R97, R10: tag and size low byte first. -/
theorem test_decode_hdr16 :
    decode .header16 [1#8, 2#8, 3#8, 4#8, 9#8, 0#8, 0#8, 0#8, 0#8, 0#8, 0#8, 8#8, 0x0C#8, 1#8, 0#8, 0#8] =
      .ok (.hdr16 0x04030201#32 0x0800000000000009#64 0x10C#32, []) := by decide
/-- W6: word 0x61 is size 12, method 1. -/
theorem test_decode_mword : decode .methodWord [0x61#8, 0#8, 0#8, 0#8] = .ok (.mword 12#29 1#3, []) := by decide
/-- The CTRL words of 95_test_vectors.md section 3. -/
theorem test_decode_find : decode .command [0x03#8, 0#8, 0#8, 0#8] = .ok (.find false false, []) := by decide
theorem test_decode_price : decode .command [0x05#8, 0#8, 0#8, 0#8] = .ok (.price false false, []) := by decide
theorem test_decode_parse : decode .command [0x07#8, 0#8, 0#8, 0#8] = .ok (.parse false false, []) := by decide
theorem test_decode_encode : decode .command [0x49#8, 0#8, 0#8, 0#8] = .ok (.encode false true, []) := by decide
theorem test_decode_compress : decode .command [0x2B#8, 0#8, 0#8, 0#8] = .ok (.compress true false, []) := by decide
theorem test_decode_decompress : decode .command [0x2D#8, 0#8, 0#8, 0#8] = .ok (.decompress true false, []) := by decide
/-- R110: bits 31:7 are ignored, a reserved OP and START = 0 are rejected by name. -/
theorem test_decode_command_rejects : decode .command [0x0B#8, 0xFF#8, 0#8, 0x80#8] = .ok (.compress false false, []) ∧
    decode .command [0x0F#8, 0#8, 0#8, 0#8] = .error (.reservedOp 7#4) ∧
    decode .command [0x0A#8, 0#8, 0#8, 0#8] = .error .notStart := by decide
/-- The records of vector PA2, and the ill-formed one of E12. -/
theorem test_decode_records :
    decode .record [0#8, 0x41#8, 0#8, 0#8, 1#8, 0#8, 0#8, 0#8] = .ok (.tokrecLit 0x41#8, []) ∧
    decode .record [1#8, 0#8, 0#8, 0#8, 3#8, 0#8, 3#8, 0#8] = .ok (.tokrecMatch 3#16 3#16, []) ∧
    decode .record [2#8, 0#8, 0#8, 0#8, 1#8, 0#8, 0#8, 0#8] = .error .malformedRecord := by decide
/-- The second record of vector F1. -/
theorem test_decode_candrec : decode .candidate [4#8, 0#8, 3#8, 0#8] = .ok (.candrec 4#16 3#16, []) := by decide
/-- The opcode table's numbering: a match word's bits 15:8 are its first byte. -/
theorem test_decodeTableWord : decodeTableWord 16 0x8000 = some (.matchTok 11 1) ∧
    decodeTableWord 32 0x0B = some (.compress false false) ∧ decodeTableWord 8 0x40 = some (.ctrlbyte 0x40#8) := by decide

/-! ## One step per instruction -/

/-- `n` times the letter A. -/
def letters (n : Nat) : List Byte := List.replicate n 0x41#8

/-- A command started after reset with its input in IN. -/
def startedIn (p : Params) (op : BitVec 4) (framing preserve : Bool) (scheme : BitVec 4) (input : List Byte) : State :=
  let s := State.resetWith p 0 []
  { s with
    inMem := s.inMem.writeBytes 0 input
    opnd := { s.opnd with scheme := scheme, inLen := u32 input.length } }.acceptStart (ctrlWord true op framing preserve)

/-- The same with LZ10 and the parameters of State.reset. -/
def started (op : BitVec 4) (framing : Bool) (input : List Byte) : State :=
  startedIn Config.resetParams op framing false 1#4 input

/-- Inside a DECOMPRESS whose input is a payload: `out` already produced, `tags` loaded. -/
def inStream (input : List Byte) (size : Word) (out : List Byte) (tags : Byte) : State :=
  let s := (started opDecompress false input).startStream 0#32 size
  (s.setOut (s.outMem.writeBytes 0 out)).setDec { s.dec with outpos := u32 out.length, flags := tags, bitsLeft := 8 }

/-- The state an outcome goes on in. -/
def nextOf : Outcome → State
  | .next t => t
  | .fault _ => State.reset
  | .refused _ => State.reset

def isNext : Outcome → Bool
  | .next _ => true
  | .fault _ => false
  | .refused _ => false

theorem next_of_isNext {o : Outcome} (h : isNext o = true) : o = .next (nextOf o) := by
  cases o with
  | next t => rfl
  | fault r => cases h
  | refused r => cases h

/-- STATUS, results and the first bytes of OUT after a step. -/
def endsIn (o : Outcome) (status : Word) (outLen result0 result1 errOffset : Nat) (out : List Byte) : Bool :=
  isNext o && decide ((nextOf o).status.word = status) && decide ((nextOf o).res.outLen = u32 outLen)
    && decide ((nextOf o).res.result0 = u32 result0) && decide ((nextOf o).res.result1 = u32 result1)
    && decide ((nextOf o).res.errOffset = u32 errOffset)
    && decide ((nextOf o).outMem.readBytes 0 out.length = out)

/-- R183: FLAGS and BITSLEFT loaded, RDPTR past the control byte (DC1's). -/
theorem test_ctrlbyte_loads :
    (nextOf (step ((started opDecompress false [0x40#8]).startStream 0#32 1#32))).dec =
      { rdptr := 1#32, outpos := 0#32, size := 1#32, flags := 0x40#8, bitsLeft := 8, toks := 0#32 } := by decide
/-- DC8: no control byte is TruncatedStream at cmd.N. -/
theorem test_ctrlbyte_truncated :
    endsIn (step ((started opDecompress false []).startStream 0#32 2#32)) 0x34#32 0 0 0 0 [] = true := by decide
/-- R184: the literal at OUTPOS 1; the next tag comes up. -/
theorem test_lit_writes :
    let t := nextOf (step (inStream [0x42#8] 5#32 [0x41#8] 0x40#8))
    t.outMem.readBytes 0 2 = [0x41#8, 0x42#8] ∧ t.dec.outpos = 2#32 ∧ t.dec.flags = 0x80#8 ∧ t.dec.bitsLeft = 7 ∧
      t.dec.toks = 1#32 := by decide
/-- W4: length 10, displacement 1 on a history that ends in X gives 10 copies of X. -/
theorem test_match_overlap :
    (nextOf (step (inStream [0x70#8, 0x00#8] 11#32 [0x58#8] 0x80#8))).outMem.readBytes 0 11 =
      List.replicate 11 0x58#8 := by decide
/-- DC14's token: Match(18, 4096) at OUTPOS 1 is InvalidMatch at its first byte. -/
theorem test_match_invalid :
    endsIn (step (inStream [0xFF#8, 0xFF#8] 19#32 [0x41#8] 0x80#8)) 0x44#32 0 0 0 0 [] = true := by decide
/-- DC11: a header whose tag differs is MalformedHeader. -/
theorem test_hdr16_wrong_tag :
    endsIn (step ((started opDecompress false (letters 16)).setStage .header)) 0x24#32 0 0 0 0 [] = true := by decide
/-- DC12: SIZE = OUT_CAP + 1 is CapacityExceeded at 12. -/
theorem test_hdr16_capacity :
    endsIn (exec (.hdr16 Config.resetParams.containerTag 0#64 65537#32) (started opDecompress false (letters 16)))
      0x84#32 0 0 0 12 [] = true := by decide
/-- W6: word 0x61 starts the stream stage of LZ10 with SIZE 12 at RDPTR 4. -/
theorem test_mword_lz10 :
    let t := nextOf (step ((started opDecompress true [0x61#8, 0#8, 0#8, 0#8]).setStage .header))
    t.stage = .stream ∧ t.dec.size = 12#32 ∧ t.dec.rdptr = 4#32 := by decide
/-- K6: method 7 maps to none. -/
theorem test_mword_unmapped :
    endsIn (step ((started opDecompress true [0x1F#8, 0#8, 0#8, 0#8]).setStage .header)) 0x14#32 0 0 0 0 [] = true := by
  decide

/-- FIND at a position. -/
def findAt (pos : Nat) (input : List Byte) : State :=
  let s := started opFind false input
  s.setCmd { s.cmd with pos := u32 pos }

/-- F1. -/
theorem test_find_F1 :
    endsIn (step (findAt 3 [0x41#8, 0x42#8, 0x43#8, 0x41#8, 0x42#8, 0x43#8, 0x41#8, 0x42#8, 0x43#8])) 0x02#32 16 4 0 0
      [3#8, 0#8, 3#8, 0#8, 4#8, 0#8, 3#8, 0#8, 5#8, 0#8, 3#8, 0#8, 6#8, 0#8, 3#8, 0#8] = true := by decide +kernel
/-- F2 (overlap, length capped by the input) and F5 (a position past it). -/
theorem test_find_F2_F5 : endsIn (step (findAt 1 (letters 4))) 0x02#32 4 1 0 0 [3#8, 0#8, 1#8, 0#8] = true ∧
    endsIn (step (findAt 5 (letters 4))) 0x74#32 0 0 0 0 [] = true := by decide +kernel

/-- PRICE of a match. -/
def priceOf (l d : Nat) : State :=
  let s := started opPrice false []
  s.setCmd { s.cmd with plen := u32 l, pdisp := u32 d }

/-- PR3. -/
theorem test_price_PR3 : endsIn (step (priceOf 18 4096)) 0x02#32 0 9 17 0 [] = true := by decide
/-- PR4, PR7. -/
theorem test_price_PR4_PR7 : endsIn (step (priceOf 2 1)) 0x44#32 0 0 0 0 [] = true ∧
    endsIn (step (priceOf 3 4097)) 0x44#32 0 0 0 0 [] = true := by decide

/-- PA4: at equal cost the literal wins over the two matches. -/
theorem test_parse_PA4 : endsIn (step (started opParse false (letters 20))) 0x02#32 24 3 35 0
    [0#8, 0x41#8, 0#8, 0#8, 1#8, 0#8, 0#8, 0#8, 1#8, 0#8, 0#8, 0#8, 18#8, 0#8, 1#8, 0#8,
     0#8, 0x41#8, 0#8, 0#8, 1#8, 0#8, 0#8, 0#8] = true := by decide +kernel
/-- PA6: at equal cost and weight the smaller displacement wins. -/
theorem test_parse_PA6 :
    optimalParse entryLz10 (letters 4 ++ [0x42#8] ++ letters 3) =
      [.lit 0x41#8, .mat 3 1, .lit 0x42#8, .mat 3 4] := by decide +kernel
/-- PA5: the greedy parse of 40 times A. -/
theorem test_greedy_PA5 : greedyParse entryLz10 (letters 40) = [.lit 0x41#8, .mat 18 1, .mat 18 1, .mat 3 1] := by
  decide +kernel

/-- The tag bytes of the reset parameters' CONTAINER_TAG (log entry 3). -/
def tagBytes : List Byte := putLE32 Config.resetParams.containerTag

/-- The stream of vector E1. -/
def streamE1 : List Byte :=
  tagBytes ++ [0#8, 0#8, 0#8, 0#8, 0#8, 0#8, 0#8, 0#8, 0x0C#8, 0#8, 0#8, 0#8, 0x40#8, 0x41#8, 0x80#8, 0x00#8]

/-- The records of vector E9. -/
def recordsE9 : List Byte :=
  [0#8, 0x41#8, 0#8, 0#8, 1#8, 0#8, 0#8, 0#8, 1#8, 0#8, 0#8, 0#8, 11#8, 0#8, 1#8, 0#8]

/-- E9. -/
theorem test_encode_E9 : endsIn (step (started opEncode false recordsE9)) 0x02#32 20 12 2 0 streamE1 = true := by
  decide +kernel
/-- E11 (l > 18) and E13 (a length that is no multiple of 8). -/
theorem test_encode_E11_E13 :
    endsIn (step (started opEncode false
      [0#8, 0x41#8, 0#8, 0#8, 1#8, 0#8, 0#8, 0#8, 1#8, 0#8, 0#8, 0#8, 19#8, 0#8, 1#8, 0#8])) 0x44#32 0 0 0 8 [] = true ∧
    endsIn (step (started opEncode false (recordsE9.take 12))) 0x94#32 0 0 0 8 [] = true := by decide +kernel

/-- E1 (and W1). -/
theorem test_compress_E1 : endsIn (step (started opCompress false (letters 12))) 0x02#32 20 2 26 0 streamE1 = true := by
  decide +kernel
/-- E8: the reserved header bytes are preserved. -/
theorem test_compress_E8 :
    let s := startedIn Config.resetParams opCompress false true 1#4 (letters 12)
    endsIn (step (s.setOut (s.outMem.writeBytes 4 (List.replicate 8 0xAA#8)))) 0x02#32 20 2 26 0
      (tagBytes ++ List.replicate 8 0xAA#8 ++ [0x0C#8, 0#8, 0#8, 0#8, 0x40#8, 0x41#8, 0x80#8, 0x00#8]) = true := by
  decide +kernel

/-- DC4: DC1 with trailing bytes. -/
theorem test_decompress_DC4 :
    endsIn (step (started opDecompress false (streamE1 ++ [0xFF#8, 0xFF#8, 0xFF#8]))) 0x02#32 12 20 2 0 (letters 12) =
      true := by decide +kernel
/-- DC6: Overrun at the match token. -/
theorem test_decompress_DC6 :
    endsIn (step (started opDecompress false (tagBytes ++
      [0#8, 0#8, 0#8, 0#8, 0#8, 0#8, 0#8, 0#8, 5#8, 0#8, 0#8, 0#8, 0x40#8, 0x41#8, 0x80#8, 0x00#8]))) 0x64#32 0 0 0 18 [] =
      true := by decide +kernel

/-- PARSE is writing two records: the first one, at WRPTR 0. -/
def puttingTokens : State :=
  let s := started opParse false (letters 4)
  { s with stage := .putTokens, seq := [.lit 0x41#8, .mat 3 1] }

/-- The literal record of PA2. -/
theorem test_tokrecLit_writes :
    (nextOf (step puttingTokens)).outMem.readBytes 0 8 = [0#8, 0x41#8, 0#8, 0#8, 1#8, 0#8, 0#8, 0#8] := by decide
/-- The match record, at WRPTR 8. -/
theorem test_tokrecMatch_writes :
    (nextOf (step (nextOf (step puttingTokens)))).outMem.readBytes 8 8 =
      [1#8, 0#8, 0#8, 0#8, 3#8, 0#8, 1#8, 0#8] := by decide
/-- E10: a match record with nothing before it is InvalidMatch at its index. -/
theorem test_tokrecMatch_before_history :
    endsIn (step ((started opEncode false [1#8, 0#8, 0#8, 0#8, 3#8, 0#8, 1#8, 0#8]).setStage .readRecords))
      0x44#32 0 0 0 0 [] = true := by decide
/-- The first record of F1. -/
theorem test_candrec_writes :
    let t := nextOf (exec (.candrec 3#16 3#16) (started opFind false []))
    t.outMem.readBytes 0 4 = [3#8, 0#8, 3#8, 0#8] ∧ t.enc.wrptr = 4#32 := by decide

/-! ## The host's side -/

/-- Program 1's START: the command is latched and BUSY set. -/
theorem test_start_latches :
    let t := nextOf (step (State.reset.setAgenda [.store .csr 0 [0x0B#8, 0#8, 0#8, 0#8]]))
    t.status.word = 1#32 ∧ t.cmd.op = opCompress ∧ t.cmd.scheme = 1#4 := by decide
/-- X7: with bit 0 = 0 no command starts, the fields are stored. -/
theorem test_ctrl_without_start :
    let t := nextOf (step (State.reset.setAgenda [.store .csr 0 [0x6A#8, 0#8, 0#8, 0#8]]))
    t.status.word = 0#32 ∧ csrRead registry .ctrl t = 0x6A#32 := by decide
/-- X5: a reserved OP is IllegalCommand before SCHEME 5 is looked at. -/
theorem test_reserved_op :
    endsIn (step (startedIn Config.resetParams 0#4 false false 5#4 [])) 0x74#32 0 0 0 0 [] = true := by decide
/-- R114: RUN is a literal and a copy; R113: out-of-range operands are assembly errors. -/
theorem test_assembler : stmtTokens (.run 0x41#8 12) = some [.lit 0x41#8, .mat 11 1] ∧
    stmtTokens (.mat 19 1) = none ∧
    assemble Config.resetParams [.lz10 12, .lit 0x41#8, .mat 11 1] = some streamE1 := by decide +kernel
/-- R113: RAW is the body of a NONE container (K4's bytes), and of no other. -/
theorem test_assembler_raw :
    assemble Config.resetParams [.mword 0 3, .raw [0x41#8, 0x42#8, 0x43#8]] =
      some [0x18#8, 0#8, 0#8, 0#8, 0x41#8, 0x42#8, 0x43#8] ∧
    assemble Config.resetParams [.mword 1 3, .raw [0x41#8, 0x42#8, 0x43#8]] = none ∧
    assemble Config.resetParams [.mword 7 3, .raw [0x41#8, 0x42#8, 0x43#8]] = none := by decide +kernel

/-- R217: over another registry FIND, PRICE and PARSE admit a raw entry with a finder; ENCODE does not (R245). -/
theorem test_raw_entry_with_finder :
    let S := { entryLz10 with codec := .raw }
    noneRejects S .find false = false ∧ noneRejects S .price true = false ∧ noneRejects S .parse false = false ∧
    noneRejects S .encode true = true ∧ noneRejects S .decompress false = true := by decide

/-! ## Witnesses: for each statement with hypotheses, states and operands that meet them, at the boundaries -/

theorem witness_decodeOfEncode : (Instr.matchTok 3 1).wellFormed = true ∧ (Instr.matchTok 18 4096).wellFormed = true := by
  decide
theorem witness_decodedBytesReencode :
    decode .matchPair [0x80#8, 0x00#8, 0x07#8] = .ok (.matchTok 11 1, [0x07#8]) ∧ Form.matchPair ≠ .command := by decide
theorem witness_matchOperandAssembly : encode (.matchTok 3 4096) = [0x0F#8, 0xFF#8] ∧
    encode (.matchTok 18 1) = [0xF0#8, 0x00#8] := by decide

/-- CTRLBYTE and LIT: one byte left, none left. -/
theorem witness_oneByteForms :
    (inStream [0x41#8] 1#32 [] 0#8).dec.rdptr.toNat < (inStream [0x41#8] 1#32 [] 0#8).cmd.n.toNat ∧
    (inStream [] 1#32 [] 0#8).cmd.n.toNat ≤ (inStream [] 1#32 [] 0#8).dec.rdptr.toNat := by decide

/-- MATCH: the last two bytes, `d` the whole history, `l` to the very end of the declared size. -/
theorem witness_matchRepeats :
    let s := inStream [0x70#8, 0x00#8] 11#32 [0x58#8] 0x80#8
    s.dec.rdptr.toNat + 2 ≤ s.cmd.n.toNat ∧ 1 ≤ s.dec.outpos.toNat ∧ s.dec.outpos.toNat + 10 ≤ s.dec.size.toNat := by
  decide
/-- MATCH: one byte left; `d` one past the history; `l` one past the declared size. -/
theorem witness_matchErrors :
    let s := inStream [0x70#8, 0x00#8] 11#32 [0x58#8] 0x80#8
    let u := inStream [0x70#8] 11#32 [0x58#8] 0x80#8
    u.cmd.n.toNat < u.dec.rdptr.toNat + 2 ∧
    (s.dec.rdptr.toNat + 2 ≤ s.cmd.n.toNat ∧ s.dec.outpos.toNat < 2) ∧
    (s.dec.rdptr.toNat + 2 ≤ s.cmd.n.toNat ∧ 1 ≤ s.dec.outpos.toNat ∧ s.dec.size.toNat < s.dec.outpos.toNat + 11) := by
  decide

theorem witness_headerStage :
    let s := started opDecompress false (letters 16)
    (started opDecompress false (letters 15)).cmd.n.toNat < 16 ∧ 16 ≤ s.cmd.n.toNat ∧ 0#32 ≠ s.params.containerTag ∧
    s.params.outCap < (65537#32).toNat ∧ (65536#32).toNat ≤ s.params.outCap := by decide

/-- Parameters whose METHOD_MAP has a tag of every kind. -/
def mixedParams : Params :=
  { Config.resetParams with
    methodMap := [some 0#4, some 1#4, some 2#4, some 4#4, some 5#4, none, none, none] }

theorem witness_methodWord :
    let s := startedIn mixedParams opDecompress true false 1#4 [0#8, 0#8, 0#8, 0#8, 7#8]
    (started opDecompress true (letters 3)).cmd.n.toNat < 4 ∧ 4 ≤ s.cmd.n.toNat ∧
    methodScheme s.params 7#3 = none ∧ methodScheme s.params 4#3 = some 5#4 ∧ methodScheme s.params 2#3 = some 2#4 ∧
    methodScheme s.params 3#3 = some 4#4 ∧ methodScheme s.params 1#3 = some 1#4 ∧
    methodScheme s.params 0#3 = some 0#4 ∧ s.params.outCap < (65537#29).toNat ∧ (65536#29).toNat ≤ s.params.outCap ∧
    s.cmd.n.toNat - 4 < (2#29).toNat ∧ (1#29).toNat ≤ s.cmd.n.toNat - 4 := by decide

/-- R127's third case: no displacement of the last three bytes of ABCD extends to a candidate. -/
theorem witness_noExtent : ∀ d, entryLz10.lim.minDisplacement ≤ d →
    d ≤ min entryLz10.lim.maxDisplacement (entryLz10.pre.length + 1) →
    matchExtent entryLz10 [0x41#8, 0x42#8, 0x43#8, 0x44#8] 1 d < entryLz10.lim.minLength := by
  intro d h h'
  have hd : d = 1 := by
    have h1 : 1 ≤ d := h
    have h2 : d ≤ min 4096 1 := h'
    omega
  subst hd
  decide
theorem witness_candidateSet : (4 : Nat) ≤ (letters 4).length ∧ (⟨3, 1⟩ : Cand) ∈ candidates entryLz10 (letters 4) 1 ∧
    (letters 4).length - 2 < entryLz10.lim.minLength ∧ entryLz10.pre.length + 0 < entryLz10.lim.minDisplacement ∧
    entryWf entryLz10 = true ∧ entryLz10.hasFinder = true := by decide

theorem witness_find :
    let s := findAt 4 (letters 4)
    s.params.wf = true ∧ s.cmd.n.toNat ≤ s.params.inCap ∧ s.cmd.scheme = 1#4 ∧ s.cmd.pos.toNat ≤ s.cmd.n.toNat ∧
    4 * (candidates entryLz10 s.input s.cmd.pos.toNat).length ≤ s.params.outCap := by decide +kernel
theorem witness_findErrors :
    let s := findAt 5 (letters 4)
    let u := startedIn { Config.resetParams with outCap := 63 } opFind false false 1#4 (letters 20)
    let v := u.setCmd { u.cmd with pos := 1#32 }
    s.cmd.n.toNat < s.cmd.pos.toNat ∧ s.cmd.scheme = 1#4 ∧ v.cmd.pos.toNat ≤ v.cmd.n.toNat ∧
    v.params.outCap < 4 * (candidates entryLz10 v.input v.cmd.pos.toNat).length := by decide +kernel

theorem witness_price : (priceOf 3 1).cmd.n.toNat ≤ (priceOf 3 1).params.inCap ∧ (priceOf 3 1).cmd.scheme = 1#4 ∧
    3 ≤ (priceOf 3 1).cmd.plen.toNat ∧ (priceOf 18 4096).cmd.plen.toNat ≤ 18 ∧ 1 ≤ (priceOf 3 1).cmd.pdisp.toNat ∧
    (priceOf 18 4096).cmd.pdisp.toNat ≤ 4096 := by decide
theorem witness_priceOutside : (priceOf 2 1).cmd.plen.toNat < 3 ∧ 18 < (priceOf 19 1).cmd.plen.toNat ∧
    (priceOf 3 0).cmd.pdisp.toNat < 1 ∧ 4096 < (priceOf 3 4097).cmd.pdisp.toNat := by decide

/-- The parser statements: an entry with a finder and a pre-buffer, and LZ10. -/
theorem witness_parserEntry : entryLz10.hasFinder = true ∧ entryWf entryLz10 = true ∧
    entryWf { entryLz10 with pre := [0x41#8] } = true ∧ (1 : Nat) ≤ 4 ∧ 4 ≤ (letters 4).length := by decide
theorem witness_covers : Covers entryLz10 (letters 4) 0 [.lit 0x41#8, .mat 3 1] := by
  refine ⟨rfl, ⟨by decide, by decide, by decide, by decide, fun k hk => ?_⟩, rfl⟩
  interval_cases k <;> rfl
/-- PARSE: records that just fit in 16 bytes of OUT, and records that do not. -/
theorem witness_parse :
    let s := startedIn { Config.resetParams with outCap := 16 } opParse false false 1#4 (letters 4)
    s.params.wf = true ∧ s.cmd.n.toNat ≤ s.params.inCap ∧ s.cmd.scheme = 1#4 ∧
    8 * (optimalParse entryLz10 s.input).length ≤ s.params.outCap := by decide +kernel
theorem witness_parseCapacity :
    let s := startedIn { Config.resetParams with outCap := 16 } opParse false false 1#4 (letters 20)
    s.params.wf = true ∧ s.cmd.n.toNat ≤ s.params.inCap ∧ s.cmd.scheme = 1#4 ∧
    s.params.outCap < 8 * (optimalParse entryLz10 s.input).length := by decide +kernel

theorem witness_tokenRecords : puttingTokens.stage = .putTokens ∧
    (let s := (started opEncode false recordsE9).setStage .readRecords
     let u := s.setSeq [.lit 0x41#8]
     u.stage = .readRecords ∧ u.cmd.scheme = 1#4 ∧ (1#16).toNat ≤ spans u.seq ∧ spans u.seq < (2#16).toNat) := by decide

/-- Both framings' method tags with the example METHOD_MAP. -/
theorem witness_usesMethod :
    UsesMethod Config.resetParams true 1#4 1#3 ∧ UsesMethod Config.resetParams true 0#4 0#3 ∧
    UsesMethod Config.resetParams false 1#4 0#3 := by
  unfold UsesMethod
  decide
theorem witness_encode :
    let s := startedIn { Config.resetParams with outCap := 20 } opEncode false false 1#4 recordsE9
    let T : List Token := [.lit 0x41#8, .mat 11 1]
    s.params.wf = true ∧ s.cmd.n.toNat ≤ s.params.inCap ∧ s.cmd.scheme = 1#4 ∧ s.cmd.n.toNat = 8 * T.length ∧
    InHolds s 0 (T.flatMap (fun k => encode (tokenRecord k))) ∧ legalTokens 0 T = true ∧
    spans T ≤ 2 ^ 29 - 1 ∧ streamLength false T ≤ s.params.outCap ∧ streamLength true T ≤ s.params.outCap := by
  unfold InHolds
  decide +kernel
/-- An ill-formed record, and a match that reaches one byte too far back, each behind one legal record. -/
theorem witness_encodeBadRecords :
    let s := started opEncode false (recordsE9.take 8 ++ [2#8, 0#8, 0#8, 0#8, 1#8, 0#8, 0#8, 0#8])
    let u := started opEncode false (recordsE9.take 8 ++ [1#8, 0#8, 0#8, 0#8, 3#8, 0#8, 2#8, 0#8])
    let T : List Token := [.lit 0x41#8]
    (started opEncode false (recordsE9.take 9)).cmd.n.toNat % 8 ≠ 0 ∧ s.cmd.n.toNat % 8 = 0 ∧
    8 * T.length + 8 ≤ s.cmd.n.toNat ∧ InHolds s 0 (T.flatMap (fun k => encode (tokenRecord k))) ∧
    legalTokens 0 T = true ∧ decode .record (s.inMem.readBytes 8 8) = .error .malformedRecord ∧
    InHolds u 8 (encode (.tokrecMatch 3#16 2#16)) ∧ spans T < (2#16).toNat := by
  unfold InHolds
  decide +kernel

/-- Records of one literal and `k` longest matches, written to IN of a started ENCODE. -/
def longTokens (k : Nat) : List Token := .lit 0x41#8 :: List.replicate k (.mat 18 1)

def longRecords (k : Nat) : List Byte := (longTokens k).flatMap (fun t => encode (tokenRecord t))

theorem legalTokens_longest (k pos : Nat) (h : 1 ≤ pos) : legalTokens pos (List.replicate k (.mat 18 1)) = true := by
  induction k generalizing pos with
  | zero => rfl
  | succ k ih => simp [List.replicate_succ, legalTokens, matchOperandsOk, h, ih (pos + 18) (by omega)]

theorem spans_longest (k : Nat) : spans (List.replicate k (.mat 18 1)) = 18 * k := by
  induction k with
  | zero => rfl
  | succ k ih => simp [List.replicate_succ, spans, span, ih]; omega

/-- ENCODE's SizeOverflow is within reach of both framings: enough records fit in the largest IN. -/
theorem witness_encodeSizeOverflow (k : Nat) (h : 8 * (k + 1) ≤ 2 ^ 32 - 1) :
    let u := startedIn { Config.resetParams with inCap := 2 ^ 32 - 1 } opEncode false false 1#4 []
    let s := (u.setIn (u.inMem.writeBytes 0 (longRecords k))).setCmd { u.cmd with n := u32 (8 * (k + 1)) }
    s.cmd.n.toNat ≤ s.params.inCap ∧ s.cmd.scheme = 1#4 ∧ s.cmd.n.toNat = 8 * (longTokens k).length ∧
    InHolds s 0 (longRecords k) ∧ legalTokens 0 (longTokens k) = true ∧ spans (longTokens k) = 18 * k + 1 := by
  refine ⟨?_, rfl, ?_, ?_, ?_, ?_⟩
  · show (u32 (8 * (k + 1))).toNat ≤ 2 ^ 32 - 1
    have := (u32 (8 * (k + 1))).isLt
    omega
  · simp [longTokens]; omega
  · exact fun i hi => (Memory.read_writeBytes_inside _ 0 (longRecords k) hi).symm
  · simp [longTokens, legalTokens, legalTokens_longest]
  · simp [longTokens, spans, span, spans_longest]; omega
theorem witness_encodeSizeOverflow_counts : 8 * (29826162 + 1) ≤ 2 ^ 32 - 1 ∧ 2 ^ 29 - 1 < 18 * 29826162 + 1 ∧
    8 * (238609295 + 1) ≤ 2 ^ 32 - 1 ∧ 2 ^ 32 - 1 < 18 * 238609295 + 1 := by decide
/-- ENCODE with no tag for the scheme, and with OUT one byte too small. -/
theorem witness_encodeSizeErrors :
    let s := startedIn { Config.resetParams with outCap := 19 } opEncode false false 1#4 recordsE9
    let T : List Token := [.lit 0x41#8, .mat 11 1]
    (∀ m, methodScheme { Config.resetParams with methodMap := List.replicate 8 none } m ≠ some 1#4) ∧
    s.cmd.n.toNat ≤ s.params.inCap ∧ s.cmd.scheme = 1#4 ∧ s.cmd.n.toNat = 8 * T.length ∧
    InHolds s 0 (T.flatMap (fun k => encode (tokenRecord k))) ∧ spans T ≤ 2 ^ 32 - 1 ∧
    s.params.outCap < streamLength false T := by
  unfold InHolds
  decide +kernel

theorem witness_compress :
    let s := startedIn { Config.resetParams with outCap := 20 } opCompress false false 1#4 (letters 12)
    let u := startedIn { Config.resetParams with outCap := 16 } opCompress true false 0#4 (letters 12)
    s.params.wf = true ∧ s.cmd.n.toNat ≤ s.params.inCap ∧ s.cmd.scheme = 1#4 ∧
    streamLength false (optimalParse entryLz10 s.input) ≤ s.params.outCap ∧
    u.params.wf = true ∧ u.cmd.scheme = 0#4 ∧ 4 + u.cmd.n.toNat ≤ u.params.outCap := by decide +kernel
/-- No tag maps to the scheme; 2^29 bytes; OUT one byte too small (E15), for LZ10 and for NONE. -/
theorem witness_compressErrors :
    let s := startedIn { Config.resetParams with methodMap := List.replicate 8 none } opCompress true false 1#4 []
    let u := startedIn { Config.resetParams with inCap := 2 ^ 29 } opCompress true false 0#4 []
    let v := u.setCmd { u.cmd with n := 536870912#32 }
    let w := startedIn { Config.resetParams with outCap := 19 } opCompress false false 1#4 (letters 12)
    let z := startedIn { Config.resetParams with outCap := 15 } opCompress true false 0#4 (letters 12)
    (∀ m, methodScheme s.params m ≠ some s.cmd.scheme) ∧
    (v.cmd.n.toNat ≤ v.params.inCap ∧ 2 ^ 29 - 1 < v.cmd.n.toNat) ∧
    w.params.outCap < streamLength false (optimalParse entryLz10 w.input) ∧ z.params.outCap < 4 + z.cmd.n.toNat := by
  decide +kernel

theorem witness_decompress :
    let T : List Token := [.lit 0x41#8, .mat 11 1]
    let s := startedIn { Config.resetParams with outCap := 16 } opDecompress false false 1#4 streamE1
    let u := startedIn { Config.resetParams with outCap := 16 } opDecompress true false 9#4
      [0x61#8, 0#8, 0#8, 0#8, 0x40#8, 0x41#8, 0x80#8, 0x00#8]
    s.params.wf = true ∧ s.cmd.scheme = 1#4 ∧ legalTokens 0 T = true ∧ spans T ≤ s.params.outCap ∧
    streamLength false T ≤ s.cmd.n.toNat ∧
    InHolds s 0 (encode (.hdr16 s.params.containerTag 0#64 (u32 (spans T))) ++ payload T) ∧
    methodScheme u.params 1#3 = some 1#4 ∧ spans T ≤ 2 ^ 29 - 1 ∧ streamLength true T ≤ u.cmd.n.toNat ∧
    InHolds u 0 (encode (.mword (BitVec.ofNat 29 (spans T)) 1#3) ++ payload T) := by
  unfold InHolds
  decide +kernel
/-- K4, and K5 where the last body byte is missing. -/
theorem witness_decompressRaw :
    let s := started opDecompress true [0x18#8, 0#8, 0#8, 0#8, 0x41#8, 0x42#8, 0x43#8]
    let u := started opDecompress true [0x18#8, 0#8, 0#8, 0#8, 0x41#8, 0x42#8]
    s.cmd.n.toNat ≤ s.params.inCap ∧ methodScheme s.params 0#3 = some 0#4 ∧ InHolds s 0 (encode (.mword 3#29 0#3)) ∧
    (3#29).toNat ≤ s.params.outCap ∧ 4 ≤ s.cmd.n.toNat ∧ (3#29).toNat ≤ s.cmd.n.toNat - 4 ∧
    InHolds u 0 (encode (.mword 3#29 0#3)) ∧ 4 ≤ u.cmd.n.toNat ∧ u.cmd.n.toNat - 4 < (3#29).toNat := by
  unfold InHolds
  decide +kernel
/-- Vector E1's run, what it leaves, and the state with its OUT copied to IN (Program 1). -/
def runE1 : State := started opCompress false (letters 12)
def afterE1 : State := nextOf (exec (.compress false false) runE1)
def copiedE1 : State := (runE1.setIn afterE1.outMem).setCmd { runE1.cmd with n := afterE1.res.outLen }

theorem witness_compressRuns : isNext (exec (.compress false false) runE1) = true := by decide +kernel

theorem copiedE1_inMem : copiedE1.inMem = afterE1.outMem := by simp [copiedE1]

theorem witness_roundTrip :
    runE1.params.wf = true ∧ exec (.compress false false) runE1 = .next afterE1 ∧ afterE1.status.done = true ∧
      copiedE1.params = runE1.params ∧ copiedE1.cmd.scheme = runE1.cmd.scheme ∧
      copiedE1.cmd.n = afterE1.res.outLen ∧
      (∀ a, a < afterE1.res.outLen.toNat → copiedE1.inMem.read a = afterE1.outMem.read a) ∧
      afterE1.res.outLen.toNat ≤ runE1.params.inCap ∧ runE1.cmd.n.toNat ≤ runE1.params.outCap := by
  refine ⟨by decide +kernel, next_of_isNext witness_compressRuns, by decide +kernel, by simp [copiedE1],
    by simp [copiedE1], by simp [copiedE1], fun a _ => ?_, by decide +kernel, by decide +kernel⟩
  rw [copiedE1_inMem]

theorem witness_commands : isCommand (.price true true) = true ∧
    (priceOf 3 1).params = ((priceOf 3 1).setDec ⟨1#32, 1#32, 1#32, 1#8, 1, 1#32⟩).params ∧
    isNext (exec (.price true true) (priceOf 3 1)) = true ∧
    (nextOf (exec (.price true true) (priceOf 3 1))).status.done = true ∧
    (nextOf (exec (.price true true) (priceOf 2 1))).status.err = true := by decide
/-- A step that ends a command. -/
theorem witness_commandEnds : (priceOf 3 1).status.busy = true ∧ isNext (step (priceOf 3 1)) = true ∧
    (nextOf (step (priceOf 3 1))).status.busy = false ∧ (priceOf 3 1).agenda = [] := by decide
/-- A stream error of DECOMPRESS, and an error that leaves OUT as it was. -/
theorem witness_errors :
    (nextOf (exec (.decompress false false) (started opDecompress false (streamE1.take 19)))).status.errCode =
      ErrCode.truncatedStream.code ∧
    (nextOf (exec (.decompress false false) (started opDecompress false (letters 15)))).status.errCode =
      ErrCode.malformedHeader.code ∧
    declaredSize (started opDecompress false (streamE1.take 19)) false = 12 := by decide +kernel
theorem witness_commonChecks :
    let s := startedIn { Config.resetParams with inCap := 16 } opFind false false 1#4 (letters 17)
    s.params.inCap < s.cmd.n.toNat ∧ (5 : Nat) ≤ (5#4).toNat ∧ 2 ≤ (2#4).toNat ∧ (4#4).toNat ≤ 4 ∧
    (∀ p, Instr.find false false ≠ .decompress true p) ∧ (∀ p, Instr.compress false false ≠ .compress true p) := by decide
theorem witness_reservedOp :
    let s := startedIn Config.resetParams 7#4 false false 5#4 []
    s.agenda = [] ∧ s.status.busy = true ∧ s.stage = .command ∧ 7 ≤ s.cmd.op.toNat := by decide
/-- The engine's turn on each of the events it may be taken at. -/
theorem witness_engineTurn (s : State) (opened : s.stage ≠ .command) :
    EngineTurn (s.setAgenda []) (s.setAgenda []) ∧
    EngineTurn (s.setAgenda [.engine, .reset]) ((s.setAgenda [.engine, .reset]).setAgenda [.reset]) ∧
    EngineTurn (s.setAgenda [.wait]) (s.setAgenda [.wait]) ∧
    EngineTurn (s.setAgenda [.internal]) ((s.setAgenda [.internal]).setAgenda []) :=
  ⟨.nothingDue rfl, .engine _ rfl, .wait _ rfl, .internal _ rfl opened⟩

/-! Host accesses: each hypothesis is an agenda that names the access, and the phase. -/

theorem witness_csrAccess :
    let s := State.reset.setAgenda [.store .csr 0 (putLE32 0x0B#32)]
    let u := (started opFind false []).setAgenda [.store .csr 0xFC (putLE32 0#32)]
    s.status.busy = false ∧ (0x0B#32).getLsbD 0 = true ∧ (0x0A#32).getLsbD 0 = false ∧ u.status.busy = true ∧
    s.agenda = .store .csr 0 (putLE32 0x0B#32) :: [] ∧ u.agenda = .store .csr 0xFC (putLE32 0#32) :: [] ∧
    0xFC % 4 = 0 ∧ 0xFC < 256 := by decide
theorem witness_csrReads :
    (State.reset.setAgenda [.load .csr 0x44 4]).agenda = .load .csr 0x44 4 :: [] ∧ 0x44 % 4 = 0 ∧ 0x2C ≤ 0x44 ∧
    State.reset.opnd.scheme = 1#4 ∧ 0#4 ≠ 1#4 ∧ 2 ≤ (2#4).toNat ∧ 5 ≤ (15#4).toNat := by decide
theorem witness_hostAccess :
    let s := State.reset
    s.status.busy = false ∧ (started opFind false []).status.busy = true ∧ s.params.inCap < 65535 + 2 ∧
    65535 + 1 ≤ s.params.inCap ∧ s.params.outCap < 65536 + 1 ∧ 65532 + 4 ≤ s.params.outCap ∧
    (s.setAgenda [.load .outBuf 65532 4]).agenda = .load .outBuf 65532 4 :: [] ∧ (2 ≠ 4 ∨ 0 % 4 ≠ 0) := by decide
/-- A CSR access just past the space, and the platform address just past the last space of State.reset's instance. -/
theorem witness_noSuchPlace :
    step (State.reset.setAgenda [.store .csr 256 [0#8, 0#8, 0#8, 0#8]]) = .refused .hostOutOfRange ∧
    (Config.resetParams.csrBase + 256 ≤ 0x30000) ∧ Config.resetParams.inBase + Config.resetParams.inCap ≤ 0x30000 ∧
    Config.resetParams.outBase + Config.resetParams.outCap ≤ 0x30000 ∧
    Config.resetParams.csrBase + 256 ≤ 0x100 ∧ 0x100 < Config.resetParams.inBase ∧
    0x100 < Config.resetParams.outBase := ⟨rfl, by decide⟩
theorem witness_platform : Config.resetParams.wf = true ∧ 255 < 256 ∧ 65535 < Config.resetParams.inCap ∧
    locate Config.resetParams 0x1FFFF = some (.inBuf, 65535) := by decide
theorem witness_reset :
    ((started opFind false []).setAgenda [.reset, .wait]).agenda = .reset :: [.wait] := by decide
theorem witness_idle : State.reset.status.busy = false ∧ State.reset.agenda = [] ∧
    (State.reset.setAgenda [.engine]).agenda = .engine :: [] ∧ (State.reset.setAgenda [.wait]).agenda = .wait :: [] ∧
    (State.reset.setAgenda [.internal]).agenda = .internal :: [] := by
  decide

/-! The step -/

theorem witness_stepRuns :
    let c := started opCompress false (letters 12)
    let h := (started opDecompress true [0x61#8, 0#8, 0#8, 0#8]).setStage .header
    let m := inStream [0x70#8, 0x00#8] 11#32 [0x58#8] 0x80#8
    let r := (started opEncode false recordsE9).setStage .readRecords
    let f := { (started opFind false []) with stage := .putCands, cands := [⟨3, 1⟩] }
    c.agenda = [] ∧ c.status.busy = true ∧
    decode .command (putLE32 (ctrlWord true c.cmd.op c.cmd.framing c.cmd.preserve)) = .ok (.compress false false, []) ∧
    InHolds h 0 (encode (.mword 12#29 1#3)) ∧ (encode (.mword 12#29 1#3)).length ≤ h.cmd.n.toNat ∧
    m.dec.outpos.toNat < m.dec.size.toNat ∧ m.dec.bitsLeft ≠ 0 ∧ m.dec.flags.getLsbD 7 = true ∧
    InHolds m m.dec.rdptr.toNat (encode (.matchTok 10 1)) ∧ m.dec.rdptr.toNat + 2 ≤ m.cmd.n.toNat ∧
    InHolds r (8 * r.seq.length) (encode (.tokrecLit 0x41#8)) ∧ 8 * r.seq.length + 8 ≤ r.cmd.n.toNat ∧
    f.cands[f.enc.wrptr.toNat / 4]? = some ⟨3, 1⟩ ∧
    puttingTokens.seq[puttingTokens.enc.wrptr.toNat / 8]? = some (.lit 0x41#8) ∧ m.stage ≠ .command := by
  unfold InHolds
  decide +kernel
/-- The stream loop: a token due with and without a tag left, and the end. -/
theorem witness_streamStage :
    let s := inStream [0x41#8] 1#32 [] 0#8
    let e := inStream [] 1#32 [0x41#8] 0#8
    s.agenda = [] ∧ s.status.busy = true ∧ s.stage = .stream ∧ s.dec.outpos.toNat < s.dec.size.toNat ∧
    s.dec.bitsLeft ≠ 0 ∧ s.dec.flags.getLsbD 7 = false ∧ e.stage = .stream ∧
    e.dec.size.toNat ≤ e.dec.outpos.toNat := by decide
theorem witness_placedWord : decodeTableWord 16 0xF001 = some (.matchTok 18 2) ∧
    decodeTableWord 32 0x2D = some (.decompress true false) ∧ decodeTableWord 32 0x62 = some (.mword 12#29 2#3) := by decide
theorem witness_internalSteps :
    let s := (started opFind false (letters 4)).setAgenda [.internal]
    s.params.wf = true ∧ s.status.busy = true ∧ s.stage = .command ∧ s.agenda = [.internal] := by decide
theorem witness_invariant : State.Inv (started opDecompress false streamE1) ∧
    isNext (step (started opDecompress false streamE1)) = true := by
  refine ⟨⟨by decide, by decide, by decide +kernel, by decide +kernel⟩, by decide +kernel⟩
/-- A START, at the register or at its platform address, a completion and a reset each change STATUS; a completion
changes the results. -/
theorem witness_statusChanges :
    (nextOf (step (State.reset.setAgenda [.store .csr 0 [0x05#8, 0#8, 0#8, 0#8]]))).status ≠ State.reset.status ∧
    (nextOf (step (State.reset.setAgenda [.storeAt 0 [0x05#8, 0#8, 0#8, 0#8]]))).status ≠ State.reset.status ∧
    (nextOf (step (priceOf 3 1))).status ≠ (priceOf 3 1).status ∧
    (nextOf (step (priceOf 3 1))).res ≠ (priceOf 3 1).res ∧
    (nextOf (step ((priceOf 3 1).setAgenda [.reset]))).status ≠ (priceOf 3 1).status := by decide
/-- A host write to IN, by index and by platform address, and a reset each change IN. -/
theorem witness_inputChanges :
    (nextOf (step (State.reset.setAgenda [.store .inBuf 65535 [0x41#8]]))).inMem ≠ State.reset.inMem ∧
    (nextOf (step (State.reset.setAgenda [.storeAt 0x10000 [0x41#8]]))).inMem ≠ State.reset.inMem ∧
    (nextOf (step (State.reset.setAgenda [.reset]))).inMem ≠ State.reset.inMem := by decide
/-- COPY at and past one token's length, at the farthest displacement with just the history for it; RUN with and without
a copy. -/
theorem witness_copy : expandCopy 3 1 = [.mat 3 1] ∧ expandCopy 19 1 = [.mat 16 1, .mat 3 1] ∧
    expandCopy 36 2 = [.mat 18 2, .mat 18 2] ∧ expandRun 0x41#8 1 = [.lit 0x41#8] ∧
    legalTokens 4096 (expandCopy 40 4096) = true ∧ legalTokens 0 (expandRun 0x41#8 4) = true := by decide

end Sys2Proof.Tests
end

section
/-! PROOFS. Host accesses of the CSR space (R66), and the registers that show the scheme registry (R32, R33). -/

namespace Sys2Proof.Machine

/-! ## One aligned 32-bit CSR access inside the space -/

variable {s : State} {off : Nat} {rest : List Event}

theorem csrShape_inside (aligned : off % 4 = 0) (inside : off < 256) : csrShape off 4 = none := by
  simp [csrShape, aligned, inside]

@[simp] theorem csrRead_setAgenda (reg : Registry) (c : Csr) (s : State) (v : List Event) :
    csrRead reg c (s.setAgenda v) = csrRead reg c s := by
  cases c <;> rfl

/-- A load hands the host what the register at that offset reads, 0 at a reserved offset, and changes nothing else. -/
theorem step_loadCsr (h : s.agenda = .load .csr off 4 :: rest) (aligned : off % 4 = 0) (inside : off < 256) :
    step s = .next ((s.setAgenda rest).setHostData (.word ((csrAt off).elim 0#32 fun c => csrRead registry c s))) := by
  simp only [step, h, eventStep, hostLoad, csrShape_inside aligned inside]
  cases csrAt off <;> simp

/-- A store writes the register at that offset, and nothing at a reserved one. -/
theorem step_storeCsr {w : Word} (h : s.agenda = .store .csr off (putLE32 w) :: rest) (aligned : off % 4 = 0)
    (inside : off < 256) :
    step s = .next ((csrAt off).elim (s.setAgenda rest) fun c => csrWrite c w (s.setAgenda rest)) := by
  simp only [step, h, eventStep, hostStore, length_putLE32, csrShape_inside aligned inside]
  cases csrAt off <;> simp [putLE32, le32_bytes]

/-! ## The registers of the scheme registry -/

/-- The offsets of the limitation registers (R25). -/
theorem limitOffset_cases (aligned : off % 4 = 0) (lo : 0x2C ≤ off) (hi : off < 0x44) :
    off = 0x2C ∨ off = 0x30 ∨ off = 0x34 ∨ off = 0x38 ∨ off = 0x3C ∨ off = 0x40 := by
  omega

/-- LZ10 is the only scheme with a finder (R23). -/
theorem registry_hasFinder_false {id : BitVec 4} (h : id ≠ 1#4) : (registry id).hasFinder = false := by
  rcases schemeId_cases id with rfl | rfl | ⟨lo, hi⟩ | lo
  · rfl
  · exact absurd rfl h
  · obtain ⟨n, hn⟩ := registry_noSource lo hi
    rw [hn]; rfl
  · rw [registry_unregistered lo]; rfl

theorem limitOf_noFinder {S : Entry} (h : S.hasFinder = false) (v : Nat) : limitOf S v = 0#32 := by
  simp [limitOf, h]

/-- Without a finder every limitation register reads 0 (R32). -/
theorem csrRead_limit_noFinder (h : (registry s.opnd.scheme).hasFinder = false) (aligned : off % 4 = 0)
    (lo : 0x2C ≤ off) (hi : off < 0x44) : ((csrAt off).elim 0#32 fun c => csrRead registry c s) = 0#32 := by
  rcases limitOffset_cases aligned lo hi with rfl | rfl | rfl | rfl | rfl | rfl <;> exact limitOf_noFinder h _

/-- The seven registers while SCHEME holds LZ10's id (R32, R33). -/
theorem csrRead_lz10 (h : s.opnd.scheme = 1#4) :
    csrRead registry .limMinLen s = 3#32 ∧ csrRead registry .limMaxLen s = 18#32 ∧
    csrRead registry .limMinDisp s = 1#32 ∧ csrRead registry .limMaxDisp s = 4096#32 ∧
    csrRead registry .limUnit s = 1#32 ∧ csrRead registry .limPreLen s = 0#32 ∧
    csrRead registry .schemeAttr s = 0x1C#32 := by
  simp only [csrRead, h]
  decide

theorem csrRead_schemeAttr_none (h : s.opnd.scheme = 0#4) : csrRead registry .schemeAttr s = 0x18#32 := by
  simp only [csrRead, h]
  rfl

theorem csrRead_schemeAttr_noSource (lo : 2 ≤ s.opnd.scheme.toNat) (hi : s.opnd.scheme.toNat ≤ 4) :
    csrRead registry .schemeAttr s = 0x10#32 := by
  obtain ⟨n, hn⟩ := registry_noSource lo hi
  simp [csrRead, hn, schemeAttrOf, entryNoSource]

theorem csrRead_schemeAttr_unregistered (lo : 5 ≤ s.opnd.scheme.toNat) : csrRead registry .schemeAttr s = 0#32 := by
  simp only [csrRead, registry_unregistered lo]
  rfl

/-- A write to a register of the scheme registry has no effect, in either phase (R32, R33, R281). -/
theorem csrWrite_registryOffset (w : Word) (aligned : off % 4 = 0) (lo : 0x2C ≤ off) (hi : off ≤ 0x44) :
    ((csrAt off).elim s fun c => csrWrite c w s) = s := by
  rcases Nat.lt_or_eq_of_le hi with hi | rfl
  · rcases limitOffset_cases aligned lo hi with rfl | rfl | rfl | rfl | rfl | rfl <;> exact ite_self s
  · exact ite_self s

/-- Settles O45: the step is the register's read or write at that offset, and the read depends on the class of the scheme
id alone. -/
theorem registryRegistersFollowScheme : Obligations.RegistryRegistersFollowScheme := by
  intro s off rest aligned lo hi
  have inside : off < 256 := by omega
  refine ⟨fun h => ⟨_, step_loadCsr h aligned inside, fun lz10 => ?_, fun other below => ?_, ?_⟩, fun w h => ?_⟩
  · obtain ⟨minLen, maxLen, minDisp, maxDisp, unit, preLen, attr⟩ := csrRead_lz10 lz10
    refine ⟨?_, ?_, ?_, ?_, ?_, ?_, ?_⟩ <;> (rintro rfl; assumption)
  · exact csrRead_limit_noFinder (registry_hasFinder_false other) aligned lo below
  · rintro rfl
    exact ⟨csrRead_schemeAttr_none, csrRead_schemeAttr_noSource, csrRead_schemeAttr_unregistered⟩
  · rw [step_storeCsr h aligned inside, csrWrite_registryOffset w aligned lo hi]

end Sys2Proof.Machine
end

section
/-! PROOFS. The operand assembly of a match token and its inverse, from bit fields to the arithmetic of R93. -/

namespace Sys2Proof

/-! ## From the two bytes to the operands -/

/-- The upper nibble of a byte is its value shifted, with nothing to reduce. -/
theorem matchLength_eq_shift (b0 : Byte) : matchLength b0 = (b0.toNat >>> 4) + 3 := by
  have nibble : b0.toNat >>> 4 < 2 ^ 4 := by rw [Nat.shiftRight_eq_div_pow]; omega
  rw [matchLength, BitVec.extractLsb'_toNat, Nat.mod_eq_of_lt nibble]

theorem matchDisplacement_eq_or (b0 b1 : Byte) :
    matchDisplacement b0 b1 = (((b0.toNat &&& 0x0F) <<< 8) ||| b1.toNat) + 1 := by
  have nibble : b0.toNat &&& 0x0F = b0.toNat % 2 ^ 4 := Nat.and_two_pow_sub_one_eq_mod _ 4
  rw [matchDisplacement, BitVec.toNat_append, BitVec.extractLsb'_toNat, Nat.shiftRight_zero, nibble]

/-! ## From the operands to the two bytes -/

theorem toNat_upperNibble_ofNat {e : Nat} (h : e < 2 ^ 12) :
    ((BitVec.ofNat 12 e).extractLsb' 8 4).toNat = e >>> 8 := by
  have nibble : e >>> 8 < 2 ^ 4 := by rw [Nat.shiftRight_eq_div_pow]; omega
  rw [BitVec.extractLsb'_toNat, BitVec.toNat_ofNat, Nat.mod_eq_of_lt h, Nat.mod_eq_of_lt nibble]

/-- B0 from a length field of 4 bits and a displacement field of 12: the two nibbles fill the byte, so neither side
reduces. -/
theorem lengthNibble_append_upperNibble {f e : Nat} (hf : f < 2 ^ 4) (he : e < 2 ^ 12) :
    BitVec.ofNat 4 f ++ (BitVec.ofNat 12 e).extractLsb' 8 4 = BitVec.ofNat 8 ((f <<< 4) ||| (e >>> 8)) := by
  have fits : (f <<< 4) ||| (e >>> 8) < 2 ^ 8 :=
    Nat.or_lt_two_pow (by rw [Nat.shiftLeft_eq]; omega) (by rw [Nat.shiftRight_eq_div_pow]; omega)
  apply BitVec.eq_of_toNat_eq
  rw [BitVec.toNat_append, toNat_upperNibble_ofNat he, BitVec.toNat_ofNat, Nat.mod_eq_of_lt hf,
    BitVec.toNat_ofNat, Nat.mod_eq_of_lt fits]

/-- B1 from any displacement field: its low byte. -/
theorem lowByte_ofNat (e : Nat) : (BitVec.ofNat 12 e).extractLsb' 0 8 = BitVec.ofNat 8 (e &&& 0xFF) := by
  have low : e &&& 0xFF = e % 2 ^ 8 := Nat.and_two_pow_sub_one_eq_mod _ 8
  apply BitVec.eq_of_toNat_eq
  rw [BitVec.extractLsb'_toNat, Nat.shiftRight_zero, BitVec.toNat_ofNat, BitVec.toNat_ofNat, low]
  omega

theorem matchBytes_eq_shifts {l d : Nat} (maxLen : l ≤ 18) (maxDisp : d ≤ 4096) :
    matchBytes l d =
      [BitVec.ofNat 8 (((l - 3) <<< 4) ||| ((d - 1) >>> 8)), BitVec.ofNat 8 ((d - 1) &&& 0xFF)] := by
  rw [matchBytes, lengthNibble_append_upperNibble (by omega) (by omega), lowByte_ofNat]

/-- Settles O3: decoder and encoder of a match token assemble its operands by `matchLength`, `matchDisplacement` and
`matchBytes`, each of which is R93's expression. -/
theorem matchOperandAssembly : Obligations.MatchOperandAssembly := by
  refine ⟨fun b0 b1 rest => ?_, fun l d _ maxLen _ maxDisp => matchBytes_eq_shifts maxLen maxDisp⟩
  rw [← matchLength_eq_shift, ← matchDisplacement_eq_or]
  rfl

end Sys2Proof
end

section
/-! PROOFS. The match finder: membership in each layer of the exhaustive strategy, down to the byte comparison of R121. -/

namespace Sys2Proof.Machine

/-! ## What the finder's lists hold -/

@[simp] theorem mem_natsFromTo {lo hi m : Nat} : m ∈ natsFromTo lo hi ↔ lo ≤ m ∧ m ≤ hi := by
  rw [natsFromTo, List.mem_range'_1]
  omega

theorem mem_candidatesAt {S : Entry} {x' : List Byte} {i d' l d : Nat} :
    (⟨l, d⟩ : Cand) ∈ candidatesAt S x' i d' ↔ d' = d ∧ S.lim.minLength ≤ l ∧ l ≤ matchExtent S x' i d' := by
  simp [candidatesAt, and_comm]

/-- R124's form of the candidate set: the displacement in its range, the length up to the extent. -/
theorem mem_candidates {S : Entry} {x' : List Byte} {i l d : Nat} :
    (⟨l, d⟩ : Cand) ∈ candidates S x' i ↔
      (S.lim.minDisplacement ≤ d ∧ d ≤ min S.lim.maxDisplacement (S.pre.length + i)) ∧
        S.lim.minLength ≤ l ∧ l ≤ matchExtent S x' i d := by
  simp only [candidates, List.mem_flatMap, mem_natsFromTo, mem_candidatesAt]
  exact ⟨fun ⟨_, range, same, len⟩ => same ▸ ⟨range, len⟩, fun ⟨range, len⟩ => ⟨d, range, rfl, len⟩⟩

/-! ## How far a match extends -/

theorem succ_le_commonPrefix_cons {m l : Nat} {a b : Byte} {as bs : List Byte} :
    l + 1 ≤ commonPrefix (m + 1) (a :: as) (b :: bs) ↔ a = b ∧ l ≤ commonPrefix m as bs := by
  by_cases same : a = b <;> simp [commonPrefix, same]

theorem forall_lt_succ_getElem?_cons {l : Nat} {a b : Byte} {as bs : List Byte} :
    (∀ k, k < l + 1 → (a :: as)[k]? = (b :: bs)[k]?) ↔ a = b ∧ ∀ k, k < l → as[k]? = bs[k]? := by
  rw [Nat.forall_lt_succ_left]
  simp

/-- The common prefix is the longest agreement within the limit. The limit must not pass the end of the second list:
behind both ends two reads agree without a byte. -/
theorem le_commonPrefix_iff {m l : Nat} {as bs : List Byte} (inside : m ≤ bs.length) :
    l ≤ commonPrefix m as bs ↔ l ≤ m ∧ ∀ k, k < l → as[k]? = bs[k]? := by
  induction m generalizing l as bs with
  | zero =>
    have nothing : l = 0 → ∀ k, k < l → as[k]? = bs[k]? := by omega
    simpa [commonPrefix] using nothing
  | succ m ih =>
    obtain ⟨b, bs, rfl⟩ := List.exists_cons_of_length_pos (by omega : 0 < bs.length)
    cases l with
    | zero => simp
    | succ l =>
      cases as with
      | nil => simpa [commonPrefix] using fun _ => ⟨0, by simp⟩
      | cons a as =>
        rw [succ_le_commonPrefix_cons, forall_lt_succ_getElem?_cons, ih (Nat.le_of_succ_le_succ inside),
          Nat.succ_le_succ_iff, and_left_comm]

/-- R124: a length is within the extent exactly when it is within the limits and its bytes agree on the virtual array. -/
theorem le_matchExtent_iff {S : Entry} {x' : List Byte} {i l d : Nat} :
    l ≤ matchExtent S x' i d ↔ l ≤ min S.lim.maxLength (x'.length - i) ∧
      ∀ k, k < l → (S.pre ++ x')[S.pre.length + i - d + k]? = (S.pre ++ x')[S.pre.length + i + k]? := by
  have inside : min S.lim.maxLength (x'.length - i) ≤ ((S.pre ++ x').drop (S.pre.length + i)).length := by
    rw [List.length_drop, List.length_append]
    omega
  simp only [matchExtent, le_commonPrefix_iff inside, List.getElem?_drop]

/-- Settles O12: R124's form of the computed set, with the extent put back into the byte comparison of R121. -/
theorem candidateSetIsExact : Obligations.CandidateSetIsExact := by
  intro S x i l d _
  rw [mem_candidates, le_matchExtent_iff]
  constructor
  · rintro ⟨⟨minDisp, maxDisp⟩, minLen, maxLen, agree⟩
    exact ⟨minLen, maxLen, minDisp, maxDisp, agree⟩
  · rintro ⟨minLen, maxLen, minDisp, maxDisp, agree⟩
    exact ⟨⟨minDisp, maxDisp⟩, minLen, maxLen, agree⟩

end Sys2Proof.Machine
end

section
/-! PROOFS. The optimal parser's arrays: the edges into a position are told apart by their rank, and each pass of the
arrays appends one of least rank, which the later passes keep. -/

namespace Sys2Proof.Machine

/-! ## The rank is a linear order -/

theorem lexLess_iff_lt : ∀ {a b : List Nat}, a.length = b.length → (lexLess a b = true ↔ a < b)
  | [], [], _ => by simp [lexLess]
  | a :: as, b :: bs, same => by
    simp [lexLess, lexLess_iff_lt (Nat.succ.inj same), List.cons_lt_cons_iff]

theorem lexLess_rank_iff {S : Entry} {n : Nat} {best : List Nat} {e e' : Edge} :
    lexLess (e.rank S n best) (e'.rank S n best) = true ↔ e.rank S n best < e'.rank S n best :=
  lexLess_iff_lt rfl

theorem Edge.rank_lt_iff {S : Entry} {n : Nat} {best : List Nat} {e e' : Edge} :
    e.rank S n best < e'.rank S n best ↔
      e.total S best < e'.total S best ∨ (e.total S best = e'.total S best ∧
        (tokenCost S e.tok < tokenCost S e'.tok ∨ (tokenCost S e.tok = tokenCost S e'.tok ∧
          (tokenDisp e.tok < tokenDisp e'.tok ∨ (tokenDisp e.tok = tokenDisp e'.tok ∧
            n - span e.tok < n - span e'.tok))))) := by
  simp [Edge.rank, List.cons_lt_cons_iff]

theorem leastEdge_mem (S : Entry) (n : Nat) (best : List Nat) (a : Edge) (es : List Edge) :
    leastEdge S n best a es ∈ a :: es := by
  induction es generalizing a with
  | nil => exact List.mem_singleton_self a
  | cons b es ih =>
    rw [leastEdge]
    split
    · exact List.mem_cons_of_mem _ (ih b)
    · exact List.cons_subset_cons _ (List.subset_cons_self b es) (ih a)

theorem rank_leastEdge_le (S : Entry) (n : Nat) (best : List Nat) (a : Edge) (es : List Edge) :
    ∀ e ∈ a :: es, (leastEdge S n best a es).rank S n best ≤ e.rank S n best := by
  induction es generalizing a with
  | nil => simp [leastEdge]
  | cons b es ih =>
    rw [leastEdge, List.forall_mem_cons, List.forall_mem_cons]
    split
    case isTrue less =>
      obtain ⟨leB, leRest⟩ := List.forall_mem_cons.mp (ih b)
      exact ⟨leB.trans (lexLess_rank_iff.mp less).le, leB, leRest⟩
    case isFalse notLess =>
      obtain ⟨leA, leRest⟩ := List.forall_mem_cons.mp (ih a)
      exact ⟨leA, leA.trans (not_lt.mp fun less => notLess (lexLess_rank_iff.mpr less)), leRest⟩

/-! ## The edges of the graph (R151) -/

section
variable {S : Entry} {x' : List Byte}

theorem entryWf_minima (finder : S.hasFinder = true) (wf : entryWf S = true) :
    1 ≤ S.lim.minLength ∧ 1 ≤ S.lim.minDisplacement := by
  simp only [entryWf, finder, Bool.not_true, Bool.false_or, Bool.and_eq_true, decide_eq_true_eq] at wf
  omega

/-- R151: an edge leaves a position of the input, by the literal of its byte or by a candidate. -/
theorem mem_edges {e : Edge} : e ∈ edges S x' ↔ e.src < x'.length ∧
    (e.tok = .lit ((x'[e.src]?).getD 0#8) ∨
      ∃ l d, e.tok = .mat l d ∧ (⟨l, d⟩ : Cand) ∈ candidates S x' e.src) := by
  obtain ⟨i, t⟩ := e
  simp only [edges, edgesFrom, List.mem_flatMap, List.mem_range, List.mem_cons, List.mem_map, Edge.mk.injEq]
  constructor
  · rintro ⟨_, inside, ⟨rfl, literal⟩ | ⟨⟨l, d⟩, cand, rfl, tok⟩⟩
    · exact ⟨inside, .inl literal⟩
    · exact ⟨inside, .inr ⟨l, d, tok.symm, cand⟩⟩
  · rintro ⟨inside, literal | ⟨l, d, tok, cand⟩⟩
    · exact ⟨i, inside, .inl ⟨rfl, literal⟩⟩
    · exact ⟨i, inside, .inr ⟨_, cand, rfl, tok.symm⟩⟩

/-- The literal edge: every position but the first has an edge into it. -/
theorem exists_edge_into {k : Nat} (inside : k < x'.length) : ∃ e ∈ edges S x', e.target = k + 1 :=
  ⟨⟨k, .lit ((x'[k]?).getD 0#8)⟩, mem_edges.mpr ⟨inside, .inl rfl⟩, rfl⟩

theorem src_lt_target (finder : S.hasFinder = true) (wf : entryWf S = true) {e : Edge} (h : e ∈ edges S x') :
    e.src < e.target := by
  have ⟨minLen, _⟩ := entryWf_minima finder wf
  obtain ⟨_, literal | ⟨l, d, tok, cand⟩⟩ := mem_edges.mp h
  · simp [Edge.target, literal, span]
  · have ⟨_, len, _⟩ := mem_candidates.mp cand
    simp only [Edge.target, tok, span]
    omega

/-- An edge is known by its target, span and displacement: only a literal has displacement 0, and its byte is that of
the source. -/
theorem edge_eq_of_target_span_disp (finder : S.hasFinder = true) (wf : entryWf S = true) {e e' : Edge}
    (h : e ∈ edges S x') (h' : e' ∈ edges S x') (target : e.target = e'.target) (len : span e.tok = span e'.tok)
    (disp : tokenDisp e.tok = tokenDisp e'.tok) : e = e' := by
  have ⟨_, minDisp⟩ := entryWf_minima finder wf
  have src : e.src = e'.src := by simp only [Edge.target] at target; omega
  have tok : e.tok = e'.tok := by
    obtain ⟨_, lit | ⟨l, d, mat, cand⟩⟩ := mem_edges.mp h <;>
      obtain ⟨_, lit' | ⟨l', d', mat', cand'⟩⟩ := mem_edges.mp h'
    · rw [lit, lit', src]
    · have ⟨⟨pos, _⟩, _⟩ := mem_candidates.mp cand'
      simp only [lit, mat', tokenDisp] at disp
      omega
    · have ⟨⟨pos, _⟩, _⟩ := mem_candidates.mp cand
      simp only [mat, lit', tokenDisp] at disp
      omega
    · simp only [mat, mat', tokenDisp, span] at disp len ⊢
      rw [disp, len]
  exact congrArg₂ Edge.mk src tok

theorem edge_eq_of_rank (finder : S.hasFinder = true) (wf : entryWf S = true) {best : List Nat} {e e' : Edge}
    (h : e ∈ edges S x') (h' : e' ∈ edges S x') (target : e.target = e'.target) (inside : e.target ≤ x'.length)
    (rank : e.rank S x'.length best = e'.rank S x'.length best) : e = e' := by
  simp only [Edge.rank, List.cons.injEq] at rank
  obtain ⟨_, _, disp, len, _⟩ := rank
  refine edge_eq_of_target_span_disp finder wf h h' target ?_ disp
  simp only [Edge.target] at target inside
  omega

/-! ## One pass of the arrays (R152, R153) -/

/-- `e` is an edge into `j`, of least rank among those into `j`. -/
def LeastInto (S : Entry) (x' : List Byte) (best : List Nat) (j : Nat) (e : Edge) : Prop :=
  e ∈ edges S x' ∧ e.target = j ∧
    ∀ e' ∈ edges S x', e'.target = j → e.rank S x'.length best ≤ e'.rank S x'.length best

theorem LeastInto.src_lt (finder : S.hasFinder = true) (wf : entryWf S = true) {best : List Nat} {j : Nat} {e : Edge}
    (h : LeastInto S x' best j e) : e.src < j := by
  obtain ⟨edge, rfl, _⟩ := h
  exact src_lt_target finder wf edge

/-- R152, R153: where an edge enters `j`, the pass of `j` appends one of least rank and its total. -/
theorem dpExtend_eq {j : Nat} (dp : Dp) (into : ∃ e ∈ edges S x', e.target = j) :
    ∃ p, LeastInto S x' dp.best j p ∧ dpExtend S x'.length (edges S x') dp j =
      { best := dp.best ++ [p.total S dp.best], pred := dp.pred ++ [p] } := by
  cases found : (edges S x').filter (fun e => e.target = j) with
  | nil =>
    obtain ⟨e, edge, target⟩ := into
    exact absurd (decide_eq_true target) (List.filter_eq_nil_iff.mp found e edge)
  | cons e rest =>
    have mem_iff (e' : Edge) : e' ∈ e :: rest ↔ e' ∈ edges S x' ∧ e'.target = j := by simp [← found]
    have ⟨edge, target⟩ := (mem_iff _).mp (leastEdge_mem S x'.length dp.best e rest)
    refine ⟨leastEdge S x'.length dp.best e rest, ⟨edge, target, fun e' edge' target' => ?_⟩, ?_⟩
    · exact rank_leastEdge_le _ _ _ _ _ _ ((mem_iff e').mpr ⟨edge', target'⟩)
    · simp [dpExtend, found]

theorem length_dpUpTo {k : Nat} (inside : k ≤ x'.length) :
    (dpUpTo S x'.length (edges S x') k).best.length = k + 1 ∧
      (dpUpTo S x'.length (edges S x') k).pred.length = k := by
  induction k with
  | zero => exact ⟨rfl, rfl⟩
  | succ k ih =>
    obtain ⟨bestLen, predLen⟩ := ih (by omega)
    obtain ⟨p, _, extended⟩ := dpExtend_eq (dpUpTo S x'.length (edges S x') k) (exists_edge_into (S := S) inside)
    simp [dpUpTo, extended, bestLen, predLen]

/-! ## Later passes keep what earlier ones found -/

theorem getElem?_of_isPrefix {α : Type} {l m : List α} (h : l <+: m) {i : Nat} (inside : i < l.length) :
    m[i]? = l[i]? := by
  obtain ⟨t, rfl⟩ := h
  exact List.getElem?_append_left inside

theorem dpExtend_grows (S : Entry) (n : Nat) (es : List Edge) (dp : Dp) (j : Nat) :
    dp.best <+: (dpExtend S n es dp j).best ∧ dp.pred <+: (dpExtend S n es dp j).pred := by
  unfold dpExtend
  split <;> simp

theorem dpUpTo_grows (S : Entry) (n : Nat) (es : List Edge) {j k : Nat} (h : j ≤ k) :
    (dpUpTo S n es j).best <+: (dpUpTo S n es k).best ∧ (dpUpTo S n es j).pred <+: (dpUpTo S n es k).pred := by
  induction k, h using Nat.le_induction with
  | base => simp
  | succ k _ ih =>
    obtain ⟨bestK, predK⟩ := ih
    obtain ⟨bestSucc, predSucc⟩ := dpExtend_grows S n es (dpUpTo S n es k) (k + 1)
    exact ⟨bestK.trans bestSucc, predK.trans predSucc⟩

theorem Edge.total_of_grown {best best' : List Nat} (grown : best <+: best') {e : Edge} (h : e.src < best.length) :
    e.total S best' = e.total S best := by
  rw [Edge.total, Edge.total, getElem?_of_isPrefix grown h]

/-- Growing best beyond `j` changes nothing for the edges into `j`, whose sources are before it. -/
theorem LeastInto.of_grown (finder : S.hasFinder = true) (wf : entryWf S = true) {best best' : List Nat} {j : Nat}
    {e : Edge} (h : LeastInto S x' best j e) (grown : best <+: best') (known : best.length = j) :
    LeastInto S x' best' j e := by
  obtain ⟨edge, target, least⟩ := h
  have sameRank {e' : Edge} (edge' : e' ∈ edges S x') (target' : e'.target = j) :
      e'.rank S x'.length best' = e'.rank S x'.length best := by
    have before := src_lt_target finder wf edge'
    rw [Edge.rank, Edge.rank, Edge.total_of_grown grown (by omega)]
  refine ⟨edge, target, fun e' edge' target' => ?_⟩
  rw [sameRank edge target, sameRank edge' target']
  exact least e' edge' target'

theorem dpArrays_best_zero (S : Entry) (x' : List Byte) : (dpArrays S x').best[0]? = some 0 :=
  getElem?_of_isPrefix (dpUpTo_grows S x'.length (edges S x') (Nat.zero_le x'.length)).1 Nat.zero_lt_one

/-- R152, R153 over the finished arrays: pred[j] is an edge into `j` of least rank, and best[j] is its total. -/
theorem dpArrays_succ (finder : S.hasFinder = true) (wf : entryWf S = true) {k : Nat} (inside : k < x'.length) :
    ∃ p, (dpArrays S x').pred[k]? = some p ∧ LeastInto S x' (dpArrays S x').best (k + 1) p ∧
      (dpArrays S x').best[k + 1]? = some (p.total S (dpArrays S x').best) := by
  obtain ⟨bestLen, predLen⟩ := length_dpUpTo (S := S) inside.le
  obtain ⟨bestK, _⟩ := dpUpTo_grows S x'.length (edges S x') inside.le
  obtain ⟨bestSucc, predSucc⟩ := dpUpTo_grows S x'.length (edges S x') (Nat.succ_le_of_lt inside)
  obtain ⟨p, least, extended⟩ := dpExtend_eq (dpUpTo S x'.length (edges S x') k) (exists_edge_into inside)
  rw [dpUpTo, extended] at bestSucc predSucc
  have sameTotal := Edge.total_of_grown (S := S) bestK (least.src_lt finder wf |>.trans_eq bestLen.symm)
  refine ⟨p, ?_, least.of_grown finder wf bestK bestLen, ?_⟩
  · rw [dpArrays, getElem?_of_isPrefix predSucc (by simp [predLen])]
    simp [predLen]
  · rw [dpArrays, sameTotal, getElem?_of_isPrefix bestSucc (by simp [bestLen])]
    simp [bestLen]

end

/-- Settles O22: pred[j] is of least rank among the edges into `j`, and no other edge into `j` has that rank, so each
of them is strictly above it in the lexicographic order. -/
theorem predecessorHasTheLeastKey : Obligations.PredecessorHasTheLeastKey := by
  intro S x finder wf
  refine ⟨dpArrays_best_zero S x, fun j low high => ?_⟩
  obtain ⟨k, rfl⟩ := Nat.exists_eq_add_of_le' low
  obtain ⟨e, pred, ⟨edge, target, least⟩, best⟩ := dpArrays_succ finder wf high
  refine ⟨e, pred, edge, target, best, fun e' edge' target' other => ?_⟩
  have distinct : e.rank S x.length (dpArrays S x).best ≠ e'.rank S x.length (dpArrays S x).best := fun same =>
    other (edge_eq_of_rank finder wf edge edge' (target.trans target'.symm) (target.trans_le high) same).symm
  have less := Edge.rank_lt_iff.mp (lt_of_le_of_ne (least e' edge' target') distinct)
  omega

end Sys2Proof.Machine
end

section
/-! PROOFS. CSR writes: none has an effect while BUSY (R281), and while IDLE only the operand registers store (R28 to
R30). -/

namespace Sys2Proof.Machine

variable {s : State} {off : Nat} {rest : List Event} {c : Csr} {w : Word}

/-! ## What a write does to each register -/

theorem csrWrite_busy (busy : s.status.busy = true) : csrWrite c w s = s :=
  if_pos busy

/-- The operand registers hold the word written, SCHEME its low four bits (R28, R29, R30). -/
theorem csrWrite_operands (idle : s.status.busy = false) :
    csrWrite .scheme w s = s.setOpnd { s.opnd with scheme := w.setWidth 4 } ∧
    csrWrite .inLen w s = s.setOpnd { s.opnd with inLen := w } ∧
    csrWrite .findPos w s = s.setOpnd { s.opnd with findPos := w } ∧
    csrWrite .priceLen w s = s.setOpnd { s.opnd with priceLen := w } ∧
    csrWrite .priceDisp w s = s.setOpnd { s.opnd with priceDisp := w } := by
  have lowBits : w.extractLsb' 0 4 = w.setWidth 4 := (BitVec.setWidth_eq_extractLsb' (by decide)).symm
  simp [csrWrite, idle, lowBits]

/-- STATUS and every register from OUT_LEN on is read-only, in either phase (R25, R66). -/
theorem csrWrite_readOnly (readOnly : c.offset = 0x04 ∨ 0x1C ≤ c.offset) : csrWrite c w s = s := by
  cases c with
  | ctrl | scheme | inLen | findPos | priceLen | priceDisp => exact absurd readOnly (by decide)
  | status | outLen | result0 | result1 | errOffset => exact ite_self s
  | limMinLen | limMaxLen | limMinDisp | limMaxDisp | limUnit | limPreLen | schemeAttr | tag => exact ite_self s

/-! ## The write at an offset of the space -/

/-- A register found at an aligned offset is the one R25 gives that offset. -/
theorem offset_of_csrAt (aligned : off % 4 = 0) (found : csrAt off = some c) : c.offset = off := by
  have table : ∀ k < 19, (csrAt (4 * k)).map Csr.offset = some (4 * k) := by decide
  have inTable : off / 4 < 19 := (List.getElem?_eq_some_iff.mp found).1
  have entry := table (off / 4) inTable
  rw [Nat.mul_div_cancel' (Nat.dvd_of_mod_eq_zero aligned), found] at entry
  exact Option.some.inj entry

theorem step_storeCsr_of_csrAt (h : s.agenda = .store .csr off (putLE32 w) :: rest) (aligned : off % 4 = 0)
    (inside : off < 256) (found : csrAt off = some c) : step s = .next (csrWrite c w (s.setAgenda rest)) := by
  rw [step_storeCsr h aligned inside, found, Option.elim_some]

/-- Where the register, if the offset has one, ignores the write, the step only takes the event off the agenda. -/
theorem step_storeCsr_noEffect (h : s.agenda = .store .csr off (putLE32 w) :: rest) (aligned : off % 4 = 0)
    (inside : off < 256)
    (noEffect : ∀ c, csrAt off = some c → csrWrite c w (s.setAgenda rest) = s.setAgenda rest) :
    step s = .next (s.setAgenda rest) := by
  cases found : csrAt off with
  | none => rw [step_storeCsr h aligned inside, found, Option.elim_none]
  | some c => rw [step_storeCsr_of_csrAt h aligned inside found, noEffect c found]

/-- Settles O43: at an operand's offset the step is that register's write; BUSY or a read-only register makes the write
one without effect, and a reserved offset has no register at all. -/
theorem csrWritesStoreOnlyOperands : Obligations.CsrWritesStoreOnlyOperands := by
  intro s off w rest aligned inside h
  refine ⟨fun busy => step_storeCsr_noEffect h aligned inside fun c _ => csrWrite_busy busy, fun idle => ?_⟩
  have write {c : Csr} {t : State} (found : csrAt off = some c) (stored : csrWrite c w (s.setAgenda rest) = t) :
      step s = .next t := stored ▸ step_storeCsr_of_csrAt h aligned inside found
  obtain ⟨scheme, inLen, findPos, priceLen, priceDisp⟩ := csrWrite_operands (s := s.setAgenda rest) (w := w) idle
  refine ⟨fun here => write (here ▸ rfl) scheme, fun here => write (here ▸ rfl) inLen,
    fun here => write (here ▸ rfl) findPos, fun here => write (here ▸ rfl) priceLen,
    fun here => write (here ▸ rfl) priceDisp, fun readOnly => ?_⟩
  refine step_storeCsr_noEffect h aligned inside fun c found => csrWrite_readOnly ?_
  rwa [offset_of_csrAt aligned found]

end Sys2Proof.Machine
end

section
/-! PROOFS. Decoder and encoder of every form (30_encoding.md) are inverse to each other: the byte-order helpers, the
operands of a match token, the fields of a method word and of a token record. -/

namespace Sys2Proof

/-! ## The bytes of a value put together from bytes -/

section
variable (b0 b1 b2 b3 b4 b5 b6 b7 : Byte)

theorem toNat_append_byte {w : Nat} (x : BitVec w) (b : Byte) : (x ++ b).toNat = 256 * x.toNat + b.toNat := by
  rw [BitVec.toNat_append, ← Nat.shiftLeft_add_eq_or_of_lt b.isLt, Nat.shiftLeft_eq]
  omega

theorem toNat_le16 : (le16 b0 b1).toNat = 256 * b1.toNat + b0.toNat := toNat_append_byte b1 b0

theorem toNat_le32 :
    (le32 b0 b1 b2 b3).toNat = 256 * (256 * (256 * b3.toNat + b2.toNat) + b1.toNat) + b0.toNat := by
  rw [le32, ← toNat_append_byte, ← toNat_append_byte, ← toNat_append_byte]

theorem toNat_le64 :
    (le64 b0 b1 b2 b3 b4 b5 b6 b7).toNat =
      256 * (256 * (256 * (256 * (256 * (256 * (256 * b7.toNat + b6.toNat) + b5.toNat) + b4.toNat) + b3.toNat)
        + b2.toNat) + b1.toNat) + b0.toNat := by
  simp only [le64, ← toNat_append_byte]

theorem extractByte_eq {w lo : Nat} {v : BitVec w} {b : Byte} (h : v.toNat / 2 ^ lo % 256 = b.toNat) :
    v.extractLsb' lo 8 = b := by
  apply BitVec.eq_of_toNat_eq
  rw [BitVec.extractLsb'_toNat, Nat.shiftRight_eq_div_pow]
  exact h

theorem putLE16_le16 : putLE16 (le16 b0 b1) = [b0, b1] := by
  simp only [putLE16, List.cons.injEq, and_true]
  refine ⟨?_, ?_⟩ <;> (refine extractByte_eq ?_; rw [toNat_le16]; omega)

theorem putLE32_le32 : putLE32 (le32 b0 b1 b2 b3) = [b0, b1, b2, b3] := by
  simp only [putLE32, List.cons.injEq, and_true]
  refine ⟨?_, ?_, ?_, ?_⟩ <;> (refine extractByte_eq ?_; rw [toNat_le32]; omega)

theorem putLE64_le64 : putLE64 (le64 b0 b1 b2 b3 b4 b5 b6 b7) = [b0, b1, b2, b3, b4, b5, b6, b7] := by
  simp only [putLE64, List.cons.injEq, and_true]
  refine ⟨?_, ?_, ?_, ?_, ?_, ?_, ?_, ?_⟩ <;> (refine extractByte_eq ?_; rw [toNat_le64]; omega)

end

/-! ## The operands of a match token (R92, R93) -/

theorem matchOperandsOk_iff {l d : Nat} : matchOperandsOk l d = true ↔ 3 ≤ l ∧ l ≤ 18 ∧ 1 ≤ d ∧ d ≤ 4096 := by
  simp [matchOperandsOk, and_assoc]

/-- Any two bytes are a match token within the ranges of R92. -/
theorem matchOperandsOk_decoded (b0 b1 : Byte) : matchOperandsOk (matchLength b0) (matchDisplacement b0 b1) = true := by
  have len := (b0.extractLsb' 4 4).isLt
  have disp := (b0.extractLsb' 0 4 ++ b1 : BitVec 12).isLt
  rw [matchOperandsOk_iff, matchLength, matchDisplacement]
  omega

theorem matchLength_append {l : Nat} (minLen : 3 ≤ l) (maxLen : l ≤ 18) (low : BitVec 4) :
    matchLength (BitVec.ofNat 4 (l - 3) ++ low) = l := by
  have upper : (BitVec.ofNat 4 (l - 3) ++ low).extractLsb' 4 4 = BitVec.ofNat 4 (l - 3) :=
    BitVec.extractLsb'_append_eq_left
  rw [matchLength, upper, BitVec.toNat_ofNat]
  omega

theorem matchDisplacement_append {d : Nat} (minDisp : 1 ≤ d) (maxDisp : d ≤ 4096) (len : BitVec 4) :
    matchDisplacement (len ++ (BitVec.ofNat 12 (d - 1)).extractLsb' 8 4) ((BitVec.ofNat 12 (d - 1)).extractLsb' 0 8)
      = d := by
  have lower : (len ++ (BitVec.ofNat 12 (d - 1)).extractLsb' 8 4).extractLsb' 0 4 =
      (BitVec.ofNat 12 (d - 1)).extractLsb' 8 4 := BitVec.extractLsb'_append_eq_right
  have joined : (BitVec.ofNat 12 (d - 1)).extractLsb' 8 4 ++ (BitVec.ofNat 12 (d - 1)).extractLsb' 0 8 =
      BitVec.ofNat 12 (d - 1) := (extractLsb'_join _ 0 4 8).trans BitVec.extractLsb'_eq_self
  rw [matchDisplacement, lower, joined, BitVec.toNat_ofNat]
  omega

/-- The encoder's bytes of the operands that two bytes stand for are those bytes. -/
theorem matchBytes_decoded (b0 b1 : Byte) : matchBytes (matchLength b0) (matchDisplacement b0 b1) = [b0, b1] := by
  have field : BitVec.ofNat 12 (matchDisplacement b0 b1 - 1) = b0.extractLsb' 0 4 ++ b1 := by simp [matchDisplacement]
  have upper : (b0.extractLsb' 0 4 ++ b1).extractLsb' 8 4 = b0.extractLsb' 0 4 := BitVec.extractLsb'_append_eq_left
  have lower : (b0.extractLsb' 0 4 ++ b1).extractLsb' 0 8 = b1 := BitVec.extractLsb'_append_eq_right
  have joined : b0.extractLsb' 4 4 ++ b0.extractLsb' 0 4 = b0 :=
    (extractLsb'_join _ 0 4 4).trans BitVec.extractLsb'_eq_self
  rw [matchBytes, field, upper, lower, matchLength, Nat.add_sub_cancel, BitVec.ofNat_toNat, BitVec.setWidth_eq, joined]

/-! ## The fields of a method word (R98) -/

theorem methodWordOf_fields (w : Word) : methodWordOf (w.extractLsb' 3 29) (w.extractLsb' 0 3) = w :=
  (extractLsb'_join w 0 29 3).trans BitVec.extractLsb'_eq_self

theorem size_methodWordOf (z : BitVec 29) (m : BitVec 3) : (methodWordOf z m).extractLsb' 3 29 = z :=
  BitVec.extractLsb'_append_eq_left

theorem method_methodWordOf (z : BitVec 29) (m : BitVec 3) : (methodWordOf z m).extractLsb' 0 3 = m :=
  BitVec.extractLsb'_append_eq_right

/-! ## The command of a CTRL word (R110) -/

section
variable (f p : Bool)

@[simp] theorem decodeCommand_find : decodeCommand (ctrlWord true opFind f p) = .ok (.find f p) := by
  simp [decodeCommand]

@[simp] theorem decodeCommand_price : decodeCommand (ctrlWord true opPrice f p) = .ok (.price f p) := by
  simp [decodeCommand, opFind, opPrice]

@[simp] theorem decodeCommand_parse : decodeCommand (ctrlWord true opParse f p) = .ok (.parse f p) := by
  simp [decodeCommand, opFind, opPrice, opParse]

@[simp] theorem decodeCommand_encode : decodeCommand (ctrlWord true opEncode f p) = .ok (.encode f p) := by
  simp [decodeCommand, opFind, opPrice, opParse, opEncode]

@[simp] theorem decodeCommand_compress : decodeCommand (ctrlWord true opCompress f p) = .ok (.compress f p) := by
  simp [decodeCommand, opFind, opPrice, opParse, opEncode, opCompress]

@[simp] theorem decodeCommand_decompress : decodeCommand (ctrlWord true opDecompress f p) = .ok (.decompress f p) := by
  simp [decodeCommand, opFind, opPrice, opParse, opEncode, opCompress, opDecompress]

end

/-- What a CTRL word starts is a command with the word's own OP and FRAMING. -/
theorem decodeCommand_cases {w : Word} {i : Instr} (h : decodeCommand w = .ok i) :
    (ctrlOp w = opFind ∧ i = .find (ctrlFraming w) (ctrlPreserve w)) ∨
    (ctrlOp w = opPrice ∧ i = .price (ctrlFraming w) (ctrlPreserve w)) ∨
    (ctrlOp w = opParse ∧ i = .parse (ctrlFraming w) (ctrlPreserve w)) ∨
    (ctrlOp w = opEncode ∧ i = .encode (ctrlFraming w) (ctrlPreserve w)) ∨
    (ctrlOp w = opCompress ∧ i = .compress (ctrlFraming w) (ctrlPreserve w)) ∨
    (ctrlOp w = opDecompress ∧ i = .decompress (ctrlFraming w) (ctrlPreserve w)) := by
  unfold decodeCommand at h
  split at h
  · cases h
  · repeat' split at h
    all_goals cases h
    all_goals simp [*]

/-- A CTRL word reads back from its four bytes. -/
theorem decode_command_putLE32 (w : Word) (rest : List Byte) :
    decode .command (putLE32 w ++ rest) = withRest rest (decodeCommand w) := by
  simp [decode, putLE32, le32_bytes]

theorem withRest_ok {rest rest' : List Byte} {r : Except DecodeError Instr} {i : Instr}
    (h : withRest rest r = .ok (i, rest')) : r = .ok i ∧ rest' = rest := by
  cases r with
  | ok j => cases h; exact ⟨rfl, rfl⟩
  | error e => cases h

/-! ## The fields of a token record (R111) -/

/-- A well-formed record is that of a literal or of a match, each with its fixed fields. -/
theorem decodeRecord_ok {kind value : Byte} {rsv length disp : BitVec 16} {i : Instr}
    (h : decodeRecord kind value rsv length disp = .ok i) : rsv = 0#16 ∧
      ((kind = 0#8 ∧ length = 1#16 ∧ disp = 0#16 ∧ i = .tokrecLit value) ∨
        (kind = 1#8 ∧ value = 0#8 ∧ i = .tokrecMatch length disp)) := by
  unfold decodeRecord at h
  repeat' split at h
  all_goals cases h
  all_goals simp_all

/-! ## One form after the other -/

/-- Settles O1: each constructor's encoding, read in its own form, gives back the constructor with its operands. -/
theorem decodeOfEncodeGivesBack : Obligations.DecodeOfEncodeGivesBack := by
  intro i rest wf
  cases i with
  | ctrlbyte f => rfl
  | lit v => rfl
  | matchTok l d =>
    obtain ⟨minLen, maxLen, minDisp, maxDisp⟩ := matchOperandsOk_iff.mp wf
    simp [Instr.form, encode, decode, matchBytes, matchLength_append minLen maxLen,
      matchDisplacement_append minDisp maxDisp]
  | hdr16 t r z => simp [Instr.form, encode, decode, putLE32, putLE64, le32_bytes, le64_bytes]
  | mword z m =>
    simp [Instr.form, encode, decode, putLE32, le32_bytes, size_methodWordOf, method_methodWordOf]
  | find f p | price f p | parse f p | encode f p | compress f p | decompress f p =>
    simp [Instr.form, encode, decode_command_putLE32, withRest]
  | tokrecLit v => rfl
  | tokrecMatch l d =>
    simp [Instr.form, encode, decode, matchRecordBytes, putLE16, le16_bytes, decodeRecord, withRest]
    rfl
  | candrec l d => simp [Instr.form, encode, decode, candRecordBytes, putLE16, le16_bytes]

/-- A well-formed record encodes to the eight bytes it was read from. -/
theorem encode_of_decodeRecord {k v r0 r1 l0 l1 d0 d1 : Byte} {i : Instr}
    (h : decodeRecord k v (le16 r0 r1) (le16 l0 l1) (le16 d0 d1) = .ok i) :
    i.wellFormed = true ∧ i.form = .record ∧ encode i = [k, v, r0, r1, l0, l1, d0, d1] := by
  obtain ⟨rsv, ⟨kind, length, disp, rfl⟩ | ⟨kind, value, rfl⟩⟩ := decodeRecord_ok h
  · have fields : litRecordBytes v =
        [0#8, v] ++ putLE16 (le16 r0 r1) ++ putLE16 (le16 l0 l1) ++ putLE16 (le16 d0 d1) := by
      rw [rsv, length, disp, litRecordBytes]
    refine ⟨rfl, rfl, ?_⟩
    rw [encode, fields, putLE16_le16, putLE16_le16, putLE16_le16, kind]
    rfl
  · refine ⟨rfl, rfl, ?_⟩
    rw [encode, matchRecordBytes, ← rsv, putLE16_le16, putLE16_le16, putLE16_le16, kind, value]
    rfl

/-- Settles O2: the bytes of each form are those that the encoder puts together from the fields read. -/
theorem decodedBytesReencode : Obligations.DecodedBytesReencode := by
  intro f bs rest i h
  cases f with
  | command =>
    simp only [decode] at h
    split at h
    · obtain ⟨command, -⟩ := withRest_ok h
      rcases decodeCommand_cases command with ⟨-, rfl⟩ | ⟨-, rfl⟩ | ⟨-, rfl⟩ | ⟨-, rfl⟩ | ⟨-, rfl⟩ | ⟨-, rfl⟩ <;>
        exact ⟨rfl, rfl, fun other => absurd rfl other⟩
    · cases h
  | header16 =>
    simp only [decode] at h
    split at h
    · cases h
      simp [Instr.wellFormed, Instr.form, encode, putLE32_le32, putLE64_le64]
    · cases h
  | methodWord =>
    simp only [decode] at h
    split at h
    · cases h
      simp [Instr.wellFormed, Instr.form, encode, methodWordOf_fields, putLE32_le32]
    · cases h
  | control | literal =>
    simp only [decode] at h
    split at h
    · cases h
      exact ⟨rfl, rfl, fun _ => rfl⟩
    · cases h
  | matchPair =>
    simp only [decode] at h
    split at h
    · cases h
      exact ⟨matchOperandsOk_decoded _ _, rfl, fun _ => by simp [encode, matchBytes_decoded]⟩
    · cases h
  | record =>
    simp only [decode] at h
    split at h
    · obtain ⟨record, rfl⟩ := withRest_ok h
      obtain ⟨wf, form, bytes⟩ := encode_of_decodeRecord record
      exact ⟨wf, form, fun _ => by simp [bytes]⟩
    · cases h
  | candidate =>
    simp only [decode] at h
    split at h
    · cases h
      simp [Instr.wellFormed, Instr.form, encode, candRecordBytes, putLE16_le16]
    · cases h

/-- Settles O4: the decoder evaluated on each word. -/
theorem writtenOutWordsDecode : Obligations.WrittenOutWordsDecode := by
  unfold Obligations.WrittenOutWordsDecode
  decide

end Sys2Proof
end

section
/-! PROOFS. Inside a command: what its instructions leave unchanged, and the bytes of OUT that they write below a
bound. -/

namespace Sys2Proof.Machine

/-! ## The frame of a command's working states -/

theorem Keeps.refl (s : State) : Keeps s s := ⟨rfl, rfl, rfl, rfl, rfl, rfl, rfl⟩

theorem Keeps.trans {s t u : State} (h : Keeps s t) (h' : Keeps t u) : Keeps s u :=
  ⟨h'.params.trans h.params, h'.ctrl.trans h.ctrl, h'.opnd.trans h.opnd, h'.cmd.trans h.cmd,
    h'.inMem.trans h.inMem, h'.agenda.trans h.agenda, h'.hostData.trans h.hostData⟩

/-- `t` is a state inside the command that runs in `s`: beside what every instruction keeps, STATUS, the results and the
next draw are as they were. -/
structure Working (s t : State) : Prop where
  keeps  : Keeps s t
  status : t.status = s.status
  res    : t.res = s.res
  draws  : t.draws = s.draws

theorem Working.refl (s : State) : Working s s := ⟨Keeps.refl s, rfl, rfl, rfl⟩

theorem Working.trans {s t u : State} (h : Working s t) (h' : Working t u) : Working s u :=
  ⟨h.keeps.trans h'.keeps, h'.status.trans h.status, h'.res.trans h.res, h'.draws.trans h.draws⟩

/-- Only these fields are free inside a command. -/
theorem working_of_fields (s : State) (dec : DecRegs) (enc : EncRegs) (dp : Option Dp) (cands : List Cand)
    (seq : List Token) (out : Memory) (stage : Stage) :
    Working s { s with dec := dec, enc := enc, dp := dp, cands := cands, seq := seq, outMem := out, stage := stage } :=
  ⟨⟨rfl, rfl, rfl, rfl, rfl, rfl, rfl⟩, rfl, rfl, rfl⟩

theorem emit_working (s : State) (bs : List Byte) : Working s (s.emit bs) := working_of_fields s _ _ _ _ _ _ _

/-- An error raised from a working state in which OUT is as it was is the error raised from the command's start. -/
theorem Working.errorEntry_eq {s t : State} (h : Working s t) (out : t.outMem = s.outMem) (e : ErrCode) (off : Nat) :
    t.errorEntry e off = s.errorEntry e off := by
  obtain ⟨⟨params, ctrl, opnd, cmd, inMem, agenda, hostData⟩, status, res, draws⟩ := h
  simp [State.errorEntry, State.release, params, ctrl, opnd, cmd, inMem, agenda, hostData, draws, out]

theorem Working.settle_error_eq {s t : State} (h : Working s t) (out : t.outMem = s.outMem) (x : Stop) :
    settle t (.error x) = settle s (.error x) := by
  cases x with
  | raise e off => rw [settle_raise, settle_raise, h.errorEntry_eq out]
  | refuse r => rfl

/-! ## Bytes written below a bound -/

/-- `m'` comes from `m` by writes of single bytes at indices below `n`. -/
inductive WrittenBelow (n : Nat) (m : Memory) : Memory → Prop
  | refl : WrittenBelow n m m
  | write {m' : Memory} (h : WrittenBelow n m m') {a : Nat} (inside : a < n) (v : Byte) :
      WrittenBelow n m (m'.write a v)

namespace WrittenBelow

variable {n : Nat} {m m' : Memory}

theorem trans {m'' : Memory} (h : WrittenBelow n m m') (h' : WrittenBelow n m' m'') : WrittenBelow n m m'' := by
  induction h' with
  | refl => exact h
  | write _ inside v ih => exact ih.write inside v

theorem mono {k : Nat} (h : WrittenBelow n m m') (le : n ≤ k) : WrittenBelow k m m' := by
  induction h with
  | refl => exact .refl
  | write _ inside v ih => exact ih.write (inside.trans_le le) v

theorem read_eq (h : WrittenBelow n m m') {a : Nat} (outside : n ≤ a) : m'.read a = m.read a := by
  induction h with
  | refl => rfl
  | write _ inside v ih => rw [Memory.read_write_ne _ _ (by omega), ih]

theorem wf (h : WrittenBelow n m m') (start : m.wf = true) : m'.wf = true := by
  induction h with
  | refl => exact start
  | write _ _ v ih => exact Memory.wf_write _ v ih

theorem cells_below (h : WrittenBelow n m m') {cap : Nat} (fits : n ≤ cap) (start : m.below cap = true) :
    m'.below cap = true := by
  induction h with
  | refl => exact start
  | write _ inside v ih => exact Memory.below_write v ih (inside.trans_le fits)

theorem writeBytes (h : WrittenBelow n m m') {a : Nat} {bs : List Byte} (inside : a + bs.length ≤ n) :
    WrittenBelow n m (m'.writeBytes a bs) := by
  induction bs generalizing m' a with
  | nil => exact h
  | cons b bs ih =>
    rw [List.length_cons] at inside
    exact ih (h.write (by omega) b) (by omega)

theorem copyMatch (h : WrittenBelow n m m') (pre : List Byte) (d : Nat) {l q : Nat} (inside : q + l ≤ n) :
    WrittenBelow n m (Machine.copyMatch pre d l q m') := by
  induction l generalizing m' q with
  | zero => exact h
  | succ l ih => exact ih (h.write (by omega) _) (by omega)

theorem drawBelow (h : WrittenBelow n m m') (k : Nat) : WrittenBelow n m (m'.drawBelow k n) := by
  have upTo (j : Nat) (le : j ≤ n) : WrittenBelow n m (m'.drawBelow k j) := by
    induction j with
    | zero => exact h
    | succ j ih => exact (ih (by omega)).write le _
  exact upTo n (Nat.le_refl n)

end WrittenBelow

/-! ## How a command ends -/

/-- `t` is the end of the command that runs in `s`: DONE or ERR, with nothing left of the working state. -/
structure Ended (s t : State) : Prop where
  keeps    : Keeps s t
  status   : t.status = statusDone ∨ ∃ e, t.status = statusErr e
  released : Released t
  work     : WorkReleased s t

theorem Working.workReleased {s t u : State} (h : Working s t) (h' : WorkReleased t u) : WorkReleased s u := by
  obtain ⟨dec, enc, draws⟩ := h'
  rw [h.draws] at dec enc draws
  exact ⟨dec, enc, draws⟩

theorem Working.complete_ended {s t : State} (h : Working s t) (n a b : Nat) : Ended s (t.complete n a b) :=
  ⟨h.keeps.trans (complete_keeps t n a b), .inl rfl, (complete_ends t n a b).released,
    h.workReleased (complete_workReleased t n a b)⟩

theorem errorEntry_ended (s : State) (e : ErrCode) (off : Nat) : Ended s (s.errorEntry e off) :=
  ⟨(errorEntry_entered s e off).keeps, .inr ⟨e, rfl⟩, (errorEntry_entered s e off).ends.released,
    errorEntry_workReleased s e off⟩

theorem Working.streamError_ended {s t : State} (h : Working s t) (e : ErrCode) (off : Nat) :
    Ended s (t.streamError e off) :=
  ⟨h.keeps.trans (streamError_entered t e off).keeps, .inr ⟨e, rfl⟩, (streamError_entered t e off).ends.released,
    h.workReleased (streamError_workReleased t e off)⟩

theorem Ended.status_not_busy {s t : State} (h : Ended s t) : t.status.busy = false := by
  obtain status | ⟨e, status⟩ := h.status <;> rw [status] <;> rfl

theorem Ended.status_legal {s t : State} (h : Ended s t) : t.status.legal = true := by
  obtain status | ⟨e, status⟩ := h.status <;> rw [status]
  · exact statusDone_legal
  · exact statusErr_legal e

theorem Ended.done_ne_err {s t : State} (h : Ended s t) : t.status.done ≠ t.status.err := by
  obtain status | ⟨e, status⟩ := h.status <;> rw [status] <;> exact Bool.noConfusion

end Sys2Proof.Machine
end

section
/-! PROOFS. The token stream (43_lzss_codec.md section 2): what each stream instruction does, and which one the stream
stage fetches. -/

namespace Sys2Proof.Machine

/-! ## The decoder's registers -/

theorem toNat_add_u32 {w : Word} {k : Nat} (fits : w.toNat + k < 2 ^ 32) : (w + u32 k).toNat = w.toNat + k := by
  rw [BitVec.toNat_add, BitVec.toNat_ofNat, Nat.add_mod_mod, Nat.mod_eq_of_lt fits]

theorem toNat_u32 {k : Nat} (fits : k < 2 ^ 32) : (u32 k).toNat = k := Nat.mod_eq_of_lt fits

section
variable (d : DecRegs) (len out : Nat)

@[simp] theorem DecRegs.afterToken_rdptr : (d.afterToken len out).rdptr = d.rdptr + u32 len := rfl
@[simp] theorem DecRegs.afterToken_outpos : (d.afterToken len out).outpos = d.outpos + u32 out := rfl
@[simp] theorem DecRegs.afterToken_size : (d.afterToken len out).size = d.size := rfl
@[simp] theorem DecRegs.afterToken_flags : (d.afterToken len out).flags = d.flags <<< 1 := rfl
@[simp] theorem DecRegs.afterToken_bitsLeft : (d.afterToken len out).bitsLeft = d.bitsLeft - 1 := rfl
@[simp] theorem DecRegs.afterToken_toks : (d.afterToken len out).toks = d.toks + 1#32 := rfl

end

/-! ## CTRLBYTE and LIT -/

section
variable {s : State}

theorem execCtrlbyte_short (f : Byte) (short : s.cmd.n.toNat ≤ s.dec.rdptr.toNat) :
    exec (.ctrlbyte f) s = .next (s.streamError .truncatedStream s.cmd.n.toNat) := if_pos (by omega)

theorem execCtrlbyte_left (f : Byte) (left : s.dec.rdptr.toNat < s.cmd.n.toNat) :
    exec (.ctrlbyte f) s = .next (s.setDec { s.dec with rdptr := s.dec.rdptr + u32 1, flags := f, bitsLeft := 8 }) :=
  if_neg (by omega)

theorem execLit_short (b : Byte) (short : s.cmd.n.toNat ≤ s.dec.rdptr.toNat) :
    exec (.lit b) s = .next (s.streamError .truncatedStream s.cmd.n.toNat) := if_pos (by omega)

theorem execLit_left (b : Byte) (left : s.dec.rdptr.toNat < s.cmd.n.toNat) :
    exec (.lit b) s =
      .next ((s.setOut (s.outMem.write s.dec.outpos.toNat b)).setDec (s.dec.afterToken 1 1)) := if_neg (by omega)

/-- While stream bytes are left, RDPTR moves past them without wrapping: cmd.N is a 32-bit value. -/
theorem toNat_rdptr_add {k : Nat} (left : s.dec.rdptr.toNat + k ≤ s.cmd.n.toNat) :
    (s.dec.rdptr + u32 k).toNat = s.dec.rdptr.toNat + k :=
  toNat_add_u32 (Nat.lt_of_le_of_lt left s.cmd.n.isLt)

end

/-- Settles O5: the two branches of the instruction. -/
theorem ctrlbyteLoadsEightTags : Obligations.CtrlbyteLoadsEightTags := by
  intro f s
  refine ⟨fun left => ⟨_, execCtrlbyte_left f left, ?_⟩, fun short => ⟨_, execCtrlbyte_short f short, ?_⟩⟩
  · exact ⟨toNat_rdptr_add left, rfl, rfl, rfl, rfl, rfl, rfl⟩
  · exact streamError_entered s _ _

/-! ## MATCH (R185) -/

section
variable {s : State} {l d : Nat}

/-- LZ10 has no pre-buffer: the history is what stands in OUT. -/
theorem entryLz10_history (q : Nat) : q + entryLz10.pre.length = q := rfl

theorem execMatchTok_truncated (short : s.cmd.n.toNat < s.dec.rdptr.toNat + 2) :
    exec (.matchTok l d) s = .next (s.streamError .truncatedStream s.cmd.n.toNat) := if_pos short

theorem execMatchTok_invalid (left : s.dec.rdptr.toNat + 2 ≤ s.cmd.n.toNat) (before : s.dec.outpos.toNat < d) :
    exec (.matchTok l d) s = .next (s.streamError .invalidMatch s.dec.rdptr.toNat) := by
  show execMatchTok l d s = _
  rw [execMatchTok, entryLz10_history, if_neg (by omega), if_pos before]

theorem execMatchTok_overrun (left : s.dec.rdptr.toNat + 2 ≤ s.cmd.n.toNat) (history : d ≤ s.dec.outpos.toNat)
    (past : s.dec.size.toNat < s.dec.outpos.toNat + l) :
    exec (.matchTok l d) s = .next (s.streamError .overrun s.dec.rdptr.toNat) := by
  show execMatchTok l d s = _
  rw [execMatchTok, entryLz10_history, if_neg (by omega), if_neg (by omega), if_pos past]

theorem execMatchTok_copies (left : s.dec.rdptr.toNat + 2 ≤ s.cmd.n.toNat) (history : d ≤ s.dec.outpos.toNat)
    (fits : s.dec.outpos.toNat + l ≤ s.dec.size.toNat) :
    exec (.matchTok l d) s =
      .next ((s.setOut (copyMatch [] d l s.dec.outpos.toNat s.outMem)).setDec (s.dec.afterToken 2 l)) := by
  show execMatchTok l d s = _
  rw [execMatchTok, entryLz10_history, if_neg (by omega), if_neg (by omega), if_neg (by omega)]
  rfl

end

/-- Settles O8: each error is the branch that the earlier ones leave. -/
theorem matchErrorsInOrder : Obligations.MatchErrorsInOrder := fun _ _ s =>
  ⟨fun short => ⟨_, execMatchTok_truncated short, streamError_entered s _ _⟩,
    fun left before => ⟨_, execMatchTok_invalid left before, streamError_entered s _ _⟩,
    fun left history past => ⟨_, execMatchTok_overrun left history past, streamError_entered s _ _⟩⟩

/-- The copy from `d` behind `q` copies one byte and goes on behind it. -/
theorem copyMatch_succ {d q : Nat} (history : d ≤ q) (l : Nat) (m : Memory) :
    copyMatch [] d (l + 1) q m = copyMatch [] d l (q + 1) (m.write q (m.read (q - d))) := by
  rw [copyMatch, histByte, if_pos history]

/-- Each byte of a copy equals the one `d` behind it, once all are written (R69, R283). -/
theorem read_copyMatch_behind {d : Nat} (pos : 1 ≤ d) {l q k : Nat} (history : d ≤ q) (inside : k < l) (m : Memory) :
    (copyMatch [] d l q m).read (q + k) = (copyMatch [] d l q m).read (q + k - d) := by
  induction l generalizing q k m with
  | zero => omega
  | succ l ih =>
    rw [copyMatch_succ history]
    cases k with
    | zero =>
      simp only [Nat.add_zero]
      rw [read_copyMatch_outside _ _ _ _ _ (by omega), read_copyMatch_outside _ _ _ _ _ (by omega),
        Memory.read_write_same, Memory.read_write_ne _ _ (by omega)]
    | succ k =>
      have next := ih (q := q + 1) (k := k) (by omega) (by omega) (m.write q (m.read (q - d)))
      rwa [Nat.add_right_comm, Nat.add_assoc] at next

/-- A copy repeats the last `d` bytes of the history (R187). -/
theorem read_copyMatch_history {d : Nat} (pos : 1 ≤ d) {l q : Nat} (history : d ≤ q) (m : Memory) (k : Nat)
    (inside : k < l) : (copyMatch [] d l q m).read (q + k) = m.read (q - d + k % d) := by
  induction k using Nat.strong_induction_on with
  | _ k ih =>
    rw [read_copyMatch_behind pos history inside]
    by_cases first : k < d
    · rw [read_copyMatch_outside _ _ _ _ _ (by omega), Nat.mod_eq_of_lt first]
      congr 1
      omega
    · rw [show q + k - d = q + (k - d) by omega, ih (k - d) (by omega) (by omega), ← Nat.mod_eq_sub_mod (by omega)]

/-- Settles O7: the instruction's copy, byte by byte and as the history repeated. -/
theorem matchRepeatsTheHistory : Obligations.MatchRepeatsTheHistory := by
  intro l d s left pos history fits
  refine ⟨_, execMatchTok_copies left history fits, fun k inside => read_copyMatch_behind pos history inside _,
    fun k inside => read_copyMatch_history pos history _ k inside,
    fun a outside => read_copyMatch_outside _ _ _ _ _ outside,
    toNat_add_u32 (Nat.lt_of_le_of_lt fits s.dec.size.isLt), toNat_rdptr_add left, rfl, rfl, rfl, rfl, rfl⟩

/-! ## Which instruction the stream stage fetches (R181 to R183) -/

theorem isCommand_iff {i : Instr} : isCommand i = true ↔ i.form = .command := by
  cases i <;> simp [isCommand, Instr.form]

theorem not_command_of_decode {f : Form} {bs rest : List Byte} {i : Instr} (h : decode f bs = .ok (i, rest))
    (other : f ≠ .command) : isCommand i = false := by
  have ⟨_, form, _⟩ := decodedBytesReencode f bs rest i h
  rw [← Bool.not_eq_true, isCommand_iff, form]
  exact other

/-- Inside a command an instruction is executed by the same meaning as outside. -/
theorem internalExec_eq_exec {i : Instr} (h : isCommand i = false) (s : State) : internalExec i s = exec i s := by
  cases i with
  | find | price | parse | encode | compress | decompress => cases h
  | ctrlbyte | lit | matchTok | hdr16 | mword | tokrecLit | tokrecMatch | candrec => rfl

/-- The instruction that stands at RDPTR: a control byte when no tag is left, else the token that the tag says. -/
def nextStreamInstr (s : State) : Instr :=
  if s.dec.bitsLeft = 0 then .ctrlbyte (s.inMem.read s.dec.rdptr.toNat)
  else if s.dec.flags.getLsbD 7 = true then
    .matchTok (matchLength (s.inMem.read s.dec.rdptr.toNat))
      (matchDisplacement (s.inMem.read s.dec.rdptr.toNat) (s.inMem.read (s.dec.rdptr.toNat + 1)))
  else .lit (s.inMem.read s.dec.rdptr.toNat)

section
variable {d : DecRegs}

theorem DecRegs.nextForm_control (none : d.bitsLeft = 0) : d.nextForm = .control := if_pos none

theorem DecRegs.nextForm_matchPair (some : d.bitsLeft ≠ 0) (tag : d.flags.getLsbD 7 = true) :
    d.nextForm = .matchPair := (if_neg some).trans (if_pos tag)

theorem DecRegs.nextForm_literal (some : d.bitsLeft ≠ 0) (tag : d.flags.getLsbD 7 = false) :
    d.nextForm = .literal := (if_neg some).trans (if_neg (Bool.eq_false_iff.mp tag))

theorem DecRegs.nextForm_cases (d : DecRegs) :
    d.nextForm = .control ∨ d.nextForm = .matchPair ∨ d.nextForm = .literal := by
  unfold nextForm
  split
  · exact .inl rfl
  · split
    · exact .inr (.inl rfl)
    · exact .inr (.inr rfl)

theorem DecRegs.nextForm_ne_command (d : DecRegs) : d.nextForm ≠ .command := by
  obtain form | form | form := d.nextForm_cases <;> rw [form] <;> decide

end

/-- Of the two bytes that may be fetched, those within cmd.N. -/
theorem streamWindow_cases (s : State) :
    (s.cmd.n.toNat ≤ s.dec.rdptr.toNat ∧ s.streamWindow 2 = []) ∨
    (s.cmd.n.toNat = s.dec.rdptr.toNat + 1 ∧ s.streamWindow 2 = [s.inMem.read s.dec.rdptr.toNat]) ∨
    (s.dec.rdptr.toNat + 2 ≤ s.cmd.n.toNat ∧
      s.streamWindow 2 = [s.inMem.read s.dec.rdptr.toNat, s.inMem.read (s.dec.rdptr.toNat + 1)]) := by
  obtain none | one | two : s.cmd.n.toNat ≤ s.dec.rdptr.toNat ∨ s.cmd.n.toNat = s.dec.rdptr.toNat + 1 ∨
      s.dec.rdptr.toNat + 2 ≤ s.cmd.n.toNat := by omega
  · exact .inl ⟨none, by rw [State.streamWindow, Nat.sub_eq_zero_of_le none]; rfl⟩
  · exact .inr (.inl ⟨one, by rw [State.streamWindow, one, Nat.add_sub_cancel_left]; rfl⟩)
  · exact .inr (.inr ⟨two, by rw [State.streamWindow, Nat.min_eq_left (by omega)]; rfl⟩)

/-- While `OUTPOS < SIZE` the turn is the instruction at RDPTR; where its bytes are missing, its own check of them
raises the same error. -/
theorem streamTurn_eq_exec {s : State} (due : s.dec.outpos.toNat < s.dec.size.toNat) :
    internalTurn (fetchStream s) s = exec (nextStreamInstr s) s := by
  rw [fetchStream, if_neg (by omega), nextStreamInstr]
  by_cases none : s.dec.bitsLeft = 0
  · rw [DecRegs.nextForm_control none, if_pos none]
    obtain ⟨short, window⟩ | ⟨_, window⟩ | ⟨_, window⟩ := streamWindow_cases s <;> rw [window]
    · exact (execCtrlbyte_short _ short).symm
    · rfl
    · rfl
  · by_cases tag : s.dec.flags.getLsbD 7 = true
    · rw [DecRegs.nextForm_matchPair none tag, if_neg none, if_pos tag]
      obtain ⟨short, window⟩ | ⟨one, window⟩ | ⟨_, window⟩ := streamWindow_cases s <;> rw [window]
      · exact (execMatchTok_truncated (by omega)).symm
      · exact (execMatchTok_truncated (by omega)).symm
      · rfl
    · rw [DecRegs.nextForm_literal none (Bool.eq_false_iff.mpr tag), if_neg none, if_neg tag]
      obtain ⟨short, window⟩ | ⟨_, window⟩ | ⟨_, window⟩ := streamWindow_cases s <;> rw [window]
      · exact (execLit_short _ short).symm
      · rfl
      · rfl

theorem streamTurn_of_end {s : State} (past : s.dec.size.toNat ≤ s.dec.outpos.toNat) :
    internalTurn (fetchStream s) s = .next (finishDecompress s) := by
  rw [fetchStream, if_pos past]
  rfl

section
variable {s : State}

theorem fetch_command (stage : s.stage = .command) : fetch s = fetchCommand s := by rw [fetch, stage]
theorem fetch_header (stage : s.stage = .header) : fetch s = fetchHeader s.cmd.framing s := by rw [fetch, stage]
theorem fetch_stream (stage : s.stage = .stream) : fetch s = fetchStream s := by rw [fetch, stage]
theorem fetch_readRecords (stage : s.stage = .readRecords) : fetch s = fetchRecord s := by rw [fetch, stage]
theorem fetch_putCands (stage : s.stage = .putCands) : fetch s = fetchCand s := by rw [fetch, stage]
theorem fetch_putTokens (stage : s.stage = .putTokens) : fetch s = fetchToken s := by rw [fetch, stage]

end

/-- Inside an opened command no command is fetched. -/
theorem not_command_of_fetch {s : State} (opened : s.stage ≠ .command) {i : Instr} (found : fetch s = .instr i) :
    isCommand i = false := by
  cases stage : s.stage with
  | command => exact absurd stage opened
  | header =>
    rw [fetch_header stage, fetchHeader] at found
    split at found <;> cases found
    rename_i decoded
    split at decoded <;> exact not_command_of_decode decoded (by decide)
  | stream =>
    rw [fetch_stream stage, fetchStream] at found
    split at found
    · cases found
    · split at found <;> cases found
      exact not_command_of_decode ‹_› s.dec.nextForm_ne_command
  | readRecords =>
    rw [fetch_readRecords stage, fetchRecord] at found
    split at found
    · cases found
    · split at found <;> cases found
      exact not_command_of_decode ‹_› (by decide)
  | putCands =>
    rw [fetch_putCands stage, fetchCand] at found
    split at found <;> cases found
    rfl
  | putTokens =>
    rw [fetch_putTokens stage, fetchToken] at found
    split at found <;> cases found
    rename_i t _
    cases t <;> rfl

/-- Inside an opened command the engine's turn is an internal turn. -/
theorem engineTurn_eq_internalTurn {s : State} (opened : s.stage ≠ .command) :
    engineTurn s = internalTurn (fetch s) s := by
  unfold engineTurn internalTurn
  cases found : fetch s with
  | instr i => exact (internalExec_eq_exec (not_command_of_fetch opened found) s).symm
  | ended o => rfl

theorem engineTurn_stream {s : State} (stage : s.stage = .stream) :
    engineTurn s = internalTurn (fetchStream s) s := by
  rw [engineTurn_eq_internalTurn (by simp [stage]), fetch_stream stage]

/-- Taking the event off the agenda changes nothing of what the engine reads in the stream. -/
theorem nextStreamInstr_setAgenda (s : State) (ag : List Event) :
    nextStreamInstr (s.setAgenda ag) = nextStreamInstr s := rfl

theorem step_stream {s u : State} (turn : EngineTurn s u) (busy : s.status.busy = true) (stage : s.stage = .stream)
    (due : s.dec.outpos.toNat < s.dec.size.toNat) : step s = exec (nextStreamInstr s) u := by
  rw [step_of_engineTurn turn busy]
  obtain ⟨ag, rfl⟩ := turn.setAgenda_eq
  rw [engineTurn_stream (s := s.setAgenda ag) stage, streamTurn_eq_exec (s := s.setAgenda ag) due,
    nextStreamInstr_setAgenda]

/-- Settles O6: the branches of the instruction, and the stream stage's fetch under a tag 0. -/
theorem literalWritesOneByte : Obligations.LiteralWritesOneByte := by
  intro b s
  refine ⟨fun left => ⟨_, execLit_left b left, ?_⟩, fun short => ⟨_, execLit_short b short, streamError_entered s _ _⟩,
    fun u turn busy stage due tags literal => ?_⟩
  · exact ⟨Memory.read_write_same _ _ _, fun a other => Memory.read_write_ne _ _ other, rfl, toNat_rdptr_add left, rfl,
      rfl, rfl, rfl, rfl⟩
  · rw [step_stream turn busy stage due, nextStreamInstr, if_neg tags, if_neg (Bool.eq_false_iff.mp literal)]

/-- Settles O9: the fetch at RDPTR, with the operands in R93's arithmetic, and the completion at SIZE. -/
theorem streamStageFetchesInOrder : Obligations.StreamStageFetchesInOrder := by
  intro s u turn busy stage
  refine ⟨fun due => ?_, fun past => ?_⟩
  · rw [step_stream turn busy stage due, nextStreamInstr, matchLength_eq_shift, matchDisplacement_eq_or]
  · rw [step_of_engineTurn turn busy]
    obtain ⟨ag, rfl⟩ := turn.setAgenda_eq
    rw [engineTurn_stream (s := s.setAgenda ag) stage, streamTurn_of_end (s := s.setAgenda ag) past]
    exact ⟨_, rfl, complete_ends _ _ _ _, fun _ => rfl, complete_keeps _ _ _ _⟩

end Sys2Proof.Machine
end

section
/-! PROOFS. The header stage (R180, R203), and the records as internal instructions (R111, R112). -/

namespace Sys2Proof.Machine

/-! ## HDR16 (R180) -/

section
variable {s : State} {tag size : BitVec 32} {rsvd : BitVec 64}

theorem execHdr16_short (short : s.cmd.n.toNat < 16) :
    exec (.hdr16 tag rsvd size) s = .next (s.errorEntry .malformedHeader 0) := if_pos short

theorem execHdr16_wrongTag (long : 16 ≤ s.cmd.n.toNat) (wrong : tag ≠ s.params.containerTag) :
    exec (.hdr16 tag rsvd size) s = .next (s.errorEntry .malformedHeader 0) :=
  (if_neg (by omega)).trans (if_pos wrong)

theorem execHdr16_capacity (long : 16 ≤ s.cmd.n.toNat) (same : tag = s.params.containerTag)
    (large : s.params.outCap < size.toNat) :
    exec (.hdr16 tag rsvd size) s = .next (s.errorEntry .capacityExceeded 12) :=
  (if_neg (by omega)).trans ((if_neg (not_not_intro same)).trans (if_pos large))

theorem execHdr16_starts (long : 16 ≤ s.cmd.n.toNat) (same : tag = s.params.containerTag)
    (fits : size.toNat ≤ s.params.outCap) :
    exec (.hdr16 tag rsvd size) s = .next (s.startStream 16#32 size) :=
  (if_neg (by omega)).trans ((if_neg (not_not_intro same)).trans (if_neg (by omega)))

end

/-- Settles O10: the four branches of the header stage. -/
theorem headerStageOfLz10 : Obligations.HeaderStageOfLz10 := by
  intro tag rsvd size s
  refine ⟨fun short => ⟨_, execHdr16_short short, errorEntry_entered s _ _⟩,
    fun long wrong => ⟨_, execHdr16_wrongTag long wrong, errorEntry_entered s _ _⟩,
    fun long same large => ⟨_, execHdr16_capacity long same large, errorEntry_entered s _ _⟩,
    fun long same fits => ⟨_, execHdr16_starts long same fits, rfl, rfl, rfl, rfl, rfl, rfl, rfl⟩⟩

/-! ## MWORD (R203, R204, R206) -/

section
variable {s : State} {size : BitVec 29} {m : BitVec 3} {id : BitVec 4}

theorem execMword_short (short : s.cmd.n.toNat < 4) :
    exec (.mword size m) s = .next (s.errorEntry .malformedHeader 0) := if_pos short

theorem execMword_unmapped (long : 4 ≤ s.cmd.n.toNat) (unmapped : methodScheme s.params m = none) :
    exec (.mword size m) s = .next (s.errorEntry .unsupportedScheme 0) := by
  show mwordOver registry size m s = _
  rw [mwordOver, if_neg (by omega), unmapped]

/-- A tag whose scheme fails the check of its entry ends as the check says. -/
theorem execMword_error (long : 4 ≤ s.cmd.n.toNat) (mapped : methodScheme s.params m = some id) {e : Stop}
    (check : checkEntry (registry id) = .error e) : exec (.mword size m) s = settle s (.error e) := by
  show mwordOver registry size m s = _
  rw [mwordOver, if_neg (by omega), mapped]
  simp only [check]

theorem execMword_enters (long : 4 ≤ s.cmd.n.toNat) (mapped : methodScheme s.params m = some id) {S : Entry}
    (check : checkEntry (registry id) = .ok S) : exec (.mword size m) s = enterMethod S size s := by
  show mwordOver registry size m s = _
  rw [mwordOver, if_neg (by omega), mapped]
  simp only [check]

/-- The ids of the two schemes that a method word may enter. -/
theorem checkEntry_entered (small : id.toNat ≤ 1) :
    ∃ S, checkEntry (registry id) = .ok S ∧ S.backwards = false := by
  have ids : ∀ i : BitVec 4, i.toNat ≤ 1 → i = 0#4 ∨ i = 1#4 := by decide
  obtain rfl | rfl := ids id small
  · exact ⟨_, checkEntry_none, rfl⟩
  · exact ⟨_, checkEntry_lz10, rfl⟩

theorem enterMethod_capacity {S : Entry} (forwards : S.backwards = false) (large : s.params.outCap < size.toNat) :
    enterMethod S size s = .next (s.errorEntry .capacityExceeded 0) := by
  rw [enterMethod, if_neg (by simp [forwards]), if_pos large]

theorem enterMethod_lz10 (fits : size.toNat ≤ s.params.outCap) :
    enterMethod entryLz10 size s = .next (s.startStream 4#32 (u32 size.toNat)) := by
  rw [enterMethod, if_neg (by decide), if_neg (by omega), if_neg (by decide)]

theorem enterMethod_rawShort (fits : size.toNat ≤ s.params.outCap) (short : s.cmd.n.toNat - 4 < size.toNat) :
    enterMethod entryNone size s = .next (s.errorEntry .malformedHeader 0) := by
  rw [enterMethod, if_neg (by decide), if_neg (by omega), if_pos (by decide), if_pos short]

theorem enterMethod_raw (fits : size.toNat ≤ s.params.outCap) (present : size.toNat ≤ s.cmd.n.toNat - 4) :
    enterMethod entryNone size s = .next (s.copyRaw size.toNat) := by
  rw [enterMethod, if_neg (by decide), if_neg (by omega), if_pos (by decide), if_neg (by omega)]

/-- A 29-bit size is held by a 32-bit register, also four bytes further. -/
theorem toNat_u32_size (size : BitVec 29) : (u32 size.toNat).toNat = size.toNat ∧
    (u32 (4 + size.toNat)).toNat = 4 + size.toNat :=
  ⟨toNat_u32 (by omega), toNat_u32 (by omega)⟩

theorem copyRaw_holds (s : State) {k n : Nat} (inside : k < n) :
    (s.copyRaw n).outMem.read k = s.inMem.read (4 + k) := by
  have written := Memory.read_writeBytes_inside s.outMem 0 (s.inMem.readBytes 4 n) (k := k) (by simpa using inside)
  rw [Memory.getElem?_readBytes _ _ inside, Nat.zero_add] at written
  exact Option.some.inj written

theorem copyRaw_outside (s : State) (n : Nat) : SameOutOutside 0 n s (s.copyRaw n) := fun a outside =>
  Memory.read_writeBytes_outside _ _ _ (by simpa using outside)

end

/-- Settles O11: the scheme's class decides the branch, and the entered scheme the next one. -/
theorem methodWordSelectsTheScheme : Obligations.MethodWordSelectsTheScheme := by
  intro size m s
  refine ⟨fun short => ⟨_, execMword_short short, errorEntry_entered s _ _⟩, fun long =>
    ⟨fun unmapped => ⟨_, execMword_unmapped long unmapped, errorEntry_entered s _ _⟩,
    fun id mapped high => ⟨_, execMword_error long mapped (checkEntry_unregistered high), errorEntry_entered s _ _⟩,
    fun id mapped low high => execMword_error long mapped (checkEntry_noSource low high),
    fun id mapped small large => ?_, fun mapped fits => ?_, fun mapped fits short => ?_, fun mapped fits present => ?_⟩⟩
  · obtain ⟨S, check, forwards⟩ := checkEntry_entered small
    exact ⟨_, (execMword_enters long mapped check).trans (enterMethod_capacity forwards large),
      errorEntry_entered s _ _⟩
  · exact ⟨_, (execMword_enters long mapped checkEntry_lz10).trans (enterMethod_lz10 fits), rfl,
      (toNat_u32_size size).1, rfl, rfl, rfl, rfl, rfl⟩
  · exact ⟨_, (execMword_enters long mapped checkEntry_none).trans (enterMethod_rawShort fits short),
      errorEntry_entered s _ _⟩
  · exact ⟨_, (execMword_enters long mapped checkEntry_none).trans (enterMethod_raw fits present),
      fun k inside => copyRaw_holds s inside, copyRaw_outside s _, (toNat_u32_size size).2, (toNat_u32_size size).1,
      (toNat_u32_size size).1, rfl, rfl, rfl⟩

/-! ## Records (R111, R112) -/

theorem putLE16_eq_bytes (v : BitVec 16) : putLE16 v = [v.setWidth 8, (v >>> 8).setWidth 8] := by
  have high : v.extractLsb' 8 8 = (v >>> 8).setWidth 8 := rfl
  rw [putLE16, high]
  rfl

/-- Settles O17: CANDREC emits the record's bytes at WRPTR. -/
theorem candrecWritesFourBytes : Obligations.CandrecWritesFourBytes := by
  intro l d s
  have bytes : candRecordBytes l d = [l.setWidth 8, (l >>> 8).setWidth 8, d.setWidth 8, (d >>> 8).setWidth 8] := by
    simp [candRecordBytes, putLE16_eq_bytes]
  refine ⟨s.emit (candRecordBytes l d), rfl, ?_, emit_outside s (candRecordBytes l d), rfl, rfl, rfl, rfl⟩
  exact bytes ▸ emit_holds s _

/-- LZ10's limitations are the ranges of a match token's fields (R23, R92). -/
theorem admits_lz10 (l d : Nat) : admits entryLz10.lim l d = matchOperandsOk l d := rfl

/-- ENCODE with LZ10 takes a match record exactly within the limitations and the history (R176). -/
theorem takeMatch_lz10 {s : State} (lz10 : s.cmd.scheme = 1#4) (l d : BitVec 16) :
    takeMatch registry l d s =
      if matchOperandsOk l.toNat d.toNat = true ∧ d.toNat ≤ spans s.seq then
        .ok (s.setSeq (s.seq ++ [.mat l.toNat d.toNat]))
      else .error (.raise .invalidMatch (8 * s.seq.length)) := by
  rw [takeMatch, lz10]
  rfl

/-- Settles O25: the stage decides between the emitted record and the token taken. -/
theorem tokenRecordsAreWrittenOrTaken : Obligations.TokenRecordsAreWrittenOrTaken := by
  intro v l d s
  refine ⟨fun puts =>
    ⟨⟨s.emit (litRecordBytes v), if_pos puts, emit_holds s (litRecordBytes v), emit_outside s (litRecordBytes v),
      rfl, rfl, rfl, rfl⟩,
    ⟨s.emit (matchRecordBytes l d), if_pos puts, ?_, emit_outside s (matchRecordBytes l d), rfl, rfl, rfl, rfl⟩⟩,
    fun reads lz10 => ?_⟩
  · have bytes : matchRecordBytes l d =
        [1#8, 0#8, 0#8, 0#8, l.setWidth 8, (l >>> 8).setWidth 8, d.setWidth 8, (d >>> 8).setWidth 8] := by
      simp [matchRecordBytes, putLE16_eq_bytes]
    exact bytes ▸ emit_holds s _
  · have other : ¬ s.stage = .putTokens := by simp [reads]
    have taken : exec (.tokrecMatch l d) s = settle s (takeMatch registry l d s) := if_neg other
    refine ⟨if_neg other, fun minLen maxLen minDisp maxDisp history => ?_, fun invalid => ?_⟩
    · rw [taken, takeMatch_lz10 lz10, if_pos ⟨matchOperandsOk_iff.mpr ⟨minLen, maxLen, minDisp, maxDisp⟩, history⟩,
        settle_ok]
    · rw [taken, takeMatch_lz10 lz10, if_neg (by rw [matchOperandsOk_iff]; omega)]
      exact ⟨_, rfl, errorEntry_entered s _ _⟩

/-! ## PRICE (R143) -/

theorem execPrice_lz10 {s : State} (f p : Bool) (hn : s.cmd.n.toNat ≤ s.params.inCap) (lz10 : s.cmd.scheme = 1#4) :
    exec (.price f p) s =
      if matchOperandsOk s.cmd.plen.toNat s.cmd.pdisp.toNat = true then .next (s.complete 0 9 17)
      else .next (s.errorEntry .invalidMatch 0) := by
  show priceOver registry f s = _
  simp only [priceOver, commonChecks_lz10 hn lz10]
  by_cases limits : admits entryLz10.lim s.cmd.plen.toNat s.cmd.pdisp.toNat = true
  · rw [if_neg (by simp [limits]), if_pos (admits_lz10 _ _ ▸ limits)]
    rfl
  · rw [if_pos (Bool.eq_false_iff.mpr limits), if_neg (admits_lz10 _ _ ▸ limits)]
    rfl

/-- Settles O18: the branch within the limitations. -/
theorem priceReportsBothPrices : Obligations.PriceReportsBothPrices := by
  intro f p s hn lz10 minLen maxLen minDisp maxDisp
  refine ⟨_, ?_, complete_ends s 0 9 17, rfl, complete_keeps s 0 9 17⟩
  rw [execPrice_lz10 f p hn lz10, if_pos (matchOperandsOk_iff.mpr ⟨minLen, maxLen, minDisp, maxDisp⟩)]

/-- Settles O19: the branch outside the limitations. -/
theorem priceRejectsOutsideLimits : Obligations.PriceRejectsOutsideLimits := by
  intro f p s hn lz10 outside
  refine ⟨_, ?_, errorEntry_entered s .invalidMatch 0⟩
  rw [execPrice_lz10 f p hn lz10, if_neg (by rw [matchOperandsOk_iff]; omega)]

end Sys2Proof.Machine
end

section
/-! PROOFS. Bytes emitted at WRPTR one block after the other, and the stream of a token sequence (43_lzss_codec.md
section 1): its length, and where its header and flag groups stand in OUT. -/

namespace Sys2Proof.Machine

/-! ## Records emitted one after the other -/

/-- Blocks of bytes emitted in order. -/
def emitAll (blocks : List (List Byte)) (s : State) : State := blocks.foldl State.emit s

theorem putCands_eq_emitAll (cs : List Cand) (s : State) :
    putCands cs s = emitAll (cs.map fun c => encode (candRecord c)) s := by
  rw [emitAll, List.foldl_map]
  rfl

theorem putTokens_eq_emitAll (ts : List Token) (s : State) :
    putTokens ts s = emitAll (ts.map fun t => encode (tokenRecord t)) s := by
  rw [emitAll, List.foldl_map]
  rfl

/-- Emission changes OUT and the encoder's registers alone. -/
theorem emitAll_frame (blocks : List (List Byte)) (s : State) :
    emitAll blocks s = (s.setOut (emitAll blocks s).outMem).setEnc (emitAll blocks s).enc := by
  induction blocks generalizing s with
  | nil => rfl
  | cons b blocks ih => exact ih (s.emit b)

theorem emitAll_working (blocks : List (List Byte)) (s : State) : Working s (emitAll blocks s) := by
  rw [emitAll_frame]
  exact working_of_fields s _ _ _ _ _ _ _

/-- Without a wrap of WRPTR the blocks are written as one. -/
theorem emitAll_outMem {blocks : List (List Byte)} {s : State}
    (fits : s.enc.wrptr.toNat + blocks.flatten.length < 2 ^ 32) :
    (emitAll blocks s).outMem = s.outMem.writeBytes s.enc.wrptr.toNat blocks.flatten := by
  induction blocks generalizing s with
  | nil => rfl
  | cons b blocks ih =>
    rw [List.flatten_cons, List.length_append] at fits
    have moved : (s.emit b).enc.wrptr.toNat = s.enc.wrptr.toNat + b.length := toNat_add_u32 (by omega)
    have rest := ih (s := s.emit b) (by omega)
    rw [List.flatten_cons, Memory.writeBytes_append, ← moved]
    exact rest

/-! ## Flag groups (R172) -/

/-- Setting tags starts from an empty group, and does not move WRPTR. -/
theorem setTags_eq (e : EncRegs) (ts : List Token) :
    e.setTags ts = { EncRegs.setTags { group := 0#8, groupN := 0, wrptr := 0#32 } ts with wrptr := e.wrptr } := by
  have keeps (w : Word) (e' : EncRegs) :
      ts.foldl (fun e t => { e with group := setTag e.group e.groupN (tokenTag t), groupN := e.groupN + 1 })
        { e' with wrptr := w } =
      { ts.foldl (fun e t => { e with group := setTag e.group e.groupN (tokenTag t), groupN := e.groupN + 1 }) e' with
        wrptr := w } := by
    induction ts generalizing e' with
    | nil => rfl
    | cons t ts ih => exact ih { e' with group := setTag e'.group e'.groupN (tokenTag t), groupN := e'.groupN + 1 }
  exact keeps e.wrptr { group := 0#8, groupN := 0, wrptr := 0#32 }

theorem emitGroup_eq (s : State) (ts : List Token) :
    s.emitGroup ts = (s.setEnc (s.enc.setTags ts)).emit (groupBytes ts) := by
  have control : (s.enc.setTags ts).group = controlByte ts := by rw [setTags_eq]; rfl
  rw [State.emitGroup, control, groupBytes]

theorem emitGroup_outMem (s : State) (ts : List Token) :
    (s.emitGroup ts).outMem = s.outMem.writeBytes s.enc.wrptr.toNat (groupBytes ts) := by
  rw [emitGroup_eq, setTags_eq]
  rfl

theorem emitGroup_wrptr (s : State) (ts : List Token) :
    (s.emitGroup ts).enc.wrptr = s.enc.wrptr + u32 (groupBytes ts).length := by
  rw [emitGroup_eq, setTags_eq]
  rfl

theorem emitGroups_working (gs : List (List Token)) (s : State) : Working s (gs.foldl State.emitGroup s) := by
  induction gs generalizing s with
  | nil => exact Working.refl s
  | cons g gs ih => exact (working_of_fields s _ _ _ _ _ _ _).trans (ih (s.emitGroup g))

theorem emitGroups_outMem {gs : List (List Token)} {s : State}
    (fits : s.enc.wrptr.toNat + (gs.flatMap groupBytes).length < 2 ^ 32) :
    (gs.foldl State.emitGroup s).outMem = s.outMem.writeBytes s.enc.wrptr.toNat (gs.flatMap groupBytes) := by
  induction gs generalizing s with
  | nil => rfl
  | cons g gs ih =>
    rw [List.flatMap_cons, List.length_append] at fits
    have moved : (s.emitGroup g).enc.wrptr.toNat = s.enc.wrptr.toNat + (groupBytes g).length := by
      rw [emitGroup_wrptr, toNat_add_u32 (by omega)]
    have rest := ih (s := s.emitGroup g) (by omega)
    rw [List.flatMap_cons, Memory.writeBytes_append, ← moved, ← emitGroup_outMem]
    exact rest

/-- Fuel for every token is as good as any more. -/
theorem groupsFrom_fuel {T : List Token} {j k : Nat} (hj : T.length ≤ j) (hk : T.length ≤ k) :
    groupsFrom j T = groupsFrom k T := by
  induction j generalizing k T with
  | zero =>
    obtain rfl : T = [] := List.length_eq_zero_iff.mp (by omega)
    cases k <;> rfl
  | succ j ih =>
    cases T with
    | nil => cases k <;> rfl
    | cons t ts =>
      obtain ⟨k, rfl⟩ := Nat.exists_eq_add_of_le' (show 1 ≤ k from by rw [List.length_cons] at hk; omega)
      rw [List.length_cons] at hj hk
      rw [groupsFrom, groupsFrom, ih (k := k) (by simp; omega) (by simp; omega)]

theorem groups_cons (t : Token) (ts : List Token) :
    groups (t :: ts) = (t :: ts).take 8 :: groups ((t :: ts).drop 8) := by
  rw [groups, groups, List.length_cons, groupsFrom, groupsFrom_fuel (by simp) (Nat.le_refl _)]

@[simp] theorem payload_nil : payload [] = [] := rfl

/-- The payload is the first group's bytes, then the payload of the other tokens. -/
theorem payload_cons (t : Token) (ts : List Token) :
    payload (t :: ts) = groupBytes ((t :: ts).take 8) ++ payload ((t :: ts).drop 8) := by
  rw [payload, groups_cons, List.flatMap_cons, payload]

/-! ## Length and cost (R144, R175) -/

theorem literals_append (as bs : List Token) : literals (as ++ bs) = literals as + literals bs := by
  induction as with
  | nil => simp [literals]
  | cons a as ih =>
    cases a <;> simp [literals, ih]
    omega

theorem literals_le_length (T : List Token) : literals T ≤ T.length := by
  induction T with
  | nil => exact Nat.le_refl 0
  | cons t ts ih => cases t <;> simp [literals] <;> omega

theorem length_tokensBytes (T : List Token) :
    (T.flatMap tokenBytes).length = literals T + 2 * (T.length - literals T) := by
  induction T with
  | nil => rfl
  | cons t ts ih =>
    have := literals_le_length ts
    cases t <;> simp [tokenBytes, literals, ih] <;> omega

theorem length_payload (T : List Token) :
    (payload T).length = (T.length + 7) / 8 + literals T + 2 * (T.length - literals T) := by
  induction h : T.length using Nat.strong_induction_on generalizing T with
  | _ n ih =>
    subst h
    cases T with
    | nil => rfl
    | cons t ts =>
      have rest := ih ((t :: ts).drop 8).length (by simp) _ rfl
      have split : literals (t :: ts) = literals ((t :: ts).take 8) + literals ((t :: ts).drop 8) := by
        rw [← literals_append, List.take_append_drop]
      have firstLe := literals_le_length ((t :: ts).take 8)
      have restLe := literals_le_length ((t :: ts).drop 8)
      rw [payload_cons, List.length_append, rest, groupBytes, List.length_cons, length_tokensBytes, split]
      simp only [List.length_take, List.length_drop, List.length_cons] at *
      omega

theorem cost_lz10 (T : List Token) : cost entryLz10 T = 9 * literals T + 17 * (T.length - literals T) := by
  induction T with
  | nil => rfl
  | cons t ts ih =>
    have := literals_le_length ts
    cases t with
    | lit b =>
      have price : cost entryLz10 (.lit b :: ts) = 9 + cost entryLz10 ts := rfl
      rw [price, ih, literals, List.length_cons]
      omega
    | mat l d =>
      have price : cost entryLz10 (.mat l d :: ts) = 17 + cost entryLz10 ts := rfl
      rw [price, ih, literals, List.length_cons]
      omega

/-- The bytes of the header before the payload (R97, R98). -/
def headerLength (framing : Bool) : Nat := if framing then 4 else 16

theorem length_headerBytes (p : Params) (framing : Bool) (n : Nat) (m : BitVec 3) :
    (headerBytes p framing n m).length = headerLength framing := by
  cases framing <;> rfl

theorem streamLength_eq (framing : Bool) (T : List Token) :
    streamLength framing T = headerLength framing + (payload T).length := by
  rw [length_payload, streamLength, headerLength]
  omega

/-- Settles O20: length and cost from the number of tokens and of literals; the rest is arithmetic. -/
theorem payloadIsCeilOfCost : Obligations.PayloadIsCeilOfCost := by
  intro T
  have le := literals_le_length T
  have ceil (T' : List Token) : (payload T').length = (cost entryLz10 T' + 7) / 8 := by
    have := literals_le_length T'
    rw [length_payload, cost_lz10]
    omega
  refine ⟨length_payload T, cost_lz10 T, ?_, by omega, ?_, ceil T, ?_, fun T' less => ?_⟩
  · rw [length_payload, cost_lz10]
    omega
  · rw [cost_lz10]
    omega
  · rw [streamLength_eq, ceil]
    rfl
  · rw [ceil, ceil]
    omega

/-! ## The stream in OUT (R170, R171, R202) -/

section
variable (s : State) (framing preserve : Bool) (n : Nat) (m : BitVec 3) (T : List Token)

theorem putStreamHeader_working : Working s (s.putStreamHeader framing preserve n m) := by
  cases framing <;> exact working_of_fields s _ _ _ _ _ _ _

theorem putStream_working : Working s (s.putStream framing preserve n m T) :=
  (putStreamHeader_working s framing preserve n m).trans (emitGroups_working _ _)

theorem putStreamHeader_wrptr : (s.putStreamHeader framing preserve n m).enc.wrptr.toNat = headerLength framing := by
  cases framing <;> rfl

/-- The header's bytes but the reserved ones are written in one piece with them, or the two fields around them. -/
theorem putStreamHeader_outMem : (s.putStreamHeader framing preserve n m).outMem =
    if framing = false ∧ preserve = true then
      (s.outMem.writeBytes 0 (putLE32 s.params.containerTag)).writeBytes 12 (putLE32 (u32 n))
    else s.outMem.writeBytes 0 (headerBytes s.params framing n m) := by
  cases framing with
  | true => rfl
  | false =>
    cases preserve with
    | true => rfl
    | false =>
      have zeros : putLE64 0#64 = List.replicate 8 0#8 := by decide
      rw [if_neg (by decide)]
      show _ = s.outMem.writeBytes 0 (putLE32 s.params.containerTag ++ putLE64 0#64 ++ putLE32 (u32 n))
      rw [zeros, Memory.writeBytes_append, Memory.writeBytes_append]
      rfl

theorem putStreamHeader_written :
    WrittenBelow (headerLength framing) s.outMem (s.putStreamHeader framing preserve n m).outMem := by
  rw [putStreamHeader_outMem]
  split
  · next reserved =>
    rw [reserved.1]
    exact (WrittenBelow.refl.writeBytes (by simp [headerLength])).writeBytes (by simp [headerLength])
  · exact WrittenBelow.refl.writeBytes (by rw [length_headerBytes, Nat.zero_add])

/-- Every header byte but the preserved ones is written. -/
theorem putStreamHeader_holds {k : Nat} (inside : k < headerLength framing)
    (written : ¬ (framing = false ∧ preserve = true ∧ 4 ≤ k ∧ k < 12)) :
    (headerBytes s.params framing n m)[k]? = some ((s.putStreamHeader framing preserve n m).outMem.read k) := by
  rw [putStreamHeader_outMem]
  split
  · next reserved =>
    obtain ⟨rfl, rfl⟩ := reserved
    have header : headerBytes s.params false n m =
        putLE32 s.params.containerTag ++ (putLE64 0#64 ++ putLE32 (u32 n)) := rfl
    rw [header]
    obtain tag | size : k < 4 ∨ 12 ≤ k := by
      simp only [true_and] at written
      omega
    · rw [List.getElem?_append_left tag, Memory.read_writeBytes_outside _ _ _ (by omega)]
      have := Memory.read_writeBytes_inside s.outMem 0 (putLE32 s.params.containerTag) (k := k) tag
      rw [← this, Nat.zero_add]
    · obtain ⟨j, rfl⟩ := Nat.exists_eq_add_of_le size
      have short : j < 4 := by simp [headerLength] at inside; omega
      rw [List.getElem?_append_right (by simp; omega), List.getElem?_append_right (by simp; omega),
        Memory.read_writeBytes_inside _ 12 (putLE32 (u32 n)) short]
      congr 1
      simp
      omega
  · have := Memory.read_writeBytes_inside s.outMem 0 (headerBytes s.params framing n m) (k := k)
      (by rwa [length_headerBytes])
    rw [← this, Nat.zero_add]

theorem putStreamHeader_reserved (framing0 : framing = false) (preserved : preserve = true) {k : Nat} (low : 4 ≤ k)
    (high : k < 12) : (s.putStreamHeader framing preserve n m).outMem.read k = s.outMem.read k := by
  rw [putStreamHeader_outMem, if_pos ⟨framing0, preserved⟩, Memory.read_writeBytes_outside _ _ _ (by omega),
    Memory.read_writeBytes_outside _ _ _ (by simp; omega)]

variable {framing preserve n m T}

/-- Behind the header the payload is written as one, for a stream that fits below 2^32. -/
theorem putStream_outMem (fits : streamLength framing T < 2 ^ 32) :
    (s.putStream framing preserve n m T).outMem =
      (s.putStreamHeader framing preserve n m).outMem.writeBytes (headerLength framing) (payload T) := by
  rw [streamLength_eq] at fits
  have groups := emitGroups_outMem (gs := groups T) (s := s.putStreamHeader framing preserve n m)
    (by rw [putStreamHeader_wrptr]; exact fits)
  rw [putStreamHeader_wrptr] at groups
  exact groups

theorem putStream_written (fits : streamLength framing T < 2 ^ 32) :
    WrittenBelow (streamLength framing T) s.outMem (s.putStream framing preserve n m T).outMem := by
  rw [putStream_outMem s fits, streamLength_eq]
  exact ((putStreamHeader_written s framing preserve n m).mono (Nat.le_add_right _ _)).writeBytes (Nat.le_refl _)

/-- OUT holds the stream: header, then payload. -/
theorem putStream_holds (fits : streamLength framing T < 2 ^ 32) {k : Nat} (inside : k < streamLength framing T)
    (written : ¬ (framing = false ∧ preserve = true ∧ 4 ≤ k ∧ k < 12)) :
    (headerBytes s.params framing n m ++ payload T)[k]? =
      some ((s.putStream framing preserve n m T).outMem.read k) := by
  rw [putStream_outMem s fits]
  rw [streamLength_eq] at inside
  by_cases header : k < headerLength framing
  · rw [List.getElem?_append_left (by rwa [length_headerBytes]), Memory.read_writeBytes_outside _ _ _ (.inl header)]
    exact putStreamHeader_holds s framing preserve n m header written
  · obtain ⟨j, rfl⟩ := Nat.exists_eq_add_of_le (Nat.le_of_not_lt header)
    rw [List.getElem?_append_right (by rw [length_headerBytes]; omega), length_headerBytes, Nat.add_sub_cancel_left,
      Memory.read_writeBytes_inside _ _ _ (by omega)]

theorem putStream_reserved (fits : streamLength framing T < 2 ^ 32) (framing0 : framing = false)
    (preserved : preserve = true) {k : Nat} (low : 4 ≤ k) (high : k < 12) :
    (s.putStream framing preserve n m T).outMem.read k = s.outMem.read k := by
  have header : k < headerLength framing := by simp [framing0, headerLength]; omega
  rw [putStream_outMem s fits, Memory.read_writeBytes_outside _ _ _ (.inl header)]
  exact putStreamHeader_reserved s framing preserve n m framing0 preserved low high

end

end Sys2Proof.Machine
end

section
/-! PROOFS. How each command can end: the five that settle their whole run at once, and DECOMPRESS with its header stage
and its stream loop. -/

namespace Sys2Proof.Machine

/-! ## Completions -/

/-- `t` is a completion from `s` whose results show `n` bytes of output: those fit in OUT, and only those were written.
(With capacities of 32 bits; beyond them WRPTR could wrap.) -/
inductive Completes (s : State) : State → Prop
  | intro {u : State} (working : Working s u) {n : Nat} (a b : Nat) (fits : n ≤ s.params.outCap)
      (written : s.params.outCap < 2 ^ 32 → WrittenBelow n s.outMem u.outMem) : Completes s (u.complete n a b)

theorem Completes.ended {s t : State} (h : Completes s t) : Ended s t := by
  cases h with
  | intro working a b _ _ => exact working.complete_ended _ a b

/-! ## FIND and PARSE: records from the start of OUT -/

section
variable {s t : State} {blocks : List (List Byte)}

theorem emitAll_outMem_zero (wrptr : t.enc.wrptr = 0#32) (fits : blocks.flatten.length < 2 ^ 32) :
    (emitAll blocks t).outMem = t.outMem.writeBytes 0 blocks.flatten := by
  have zero : t.enc.wrptr.toNat = 0 := by rw [wrptr]; rfl
  rw [emitAll_outMem (by omega), zero]

theorem emitAll_completes (start : Working s t) (wrptr : t.enc.wrptr = 0#32) (out : t.outMem = s.outMem) {n : Nat}
    (length : blocks.flatten.length = n) (fits : n ≤ s.params.outCap) (a b : Nat) :
    Completes s ((emitAll blocks t).complete n a b) := by
  subst length
  refine .intro (start.trans (emitAll_working blocks t)) a b fits fun small => ?_
  rw [emitAll_outMem_zero wrptr (by omega), out]
  exact WrittenBelow.refl.writeBytes (by omega)

end

theorem length_candRecords (C : List Cand) : (C.map fun c => encode (candRecord c)).flatten.length = 4 * C.length := by
  have each (c : Cand) : (encode (candRecord c)).length = 4 := rfl
  simp [List.length_flatten, Function.comp_def, each, Nat.mul_comm]

theorem length_tokenRecords (T : List Token) :
    (T.map fun t => encode (tokenRecord t)).flatten.length = 8 * T.length := by
  have each (t : Token) : (encode (tokenRecord t)).length = 8 := by cases t <;> rfl
  simp [List.length_flatten, Function.comp_def, each, Nat.mul_comm]

theorem finishFind_putCands (t : State) : finishFind (putCands t.cands t) =
    (emitAll (t.cands.map fun c => encode (candRecord c)) t).complete (4 * t.cands.length) t.cands.length 0 := by
  have same : (emitAll (t.cands.map fun c => encode (candRecord c)) t).cands = t.cands := by rw [emitAll_frame]; rfl
  rw [putCands_eq_emitAll, finishFind, same]

theorem finishParse_putTokens (reg : Registry) (t : State) : finishParse reg (putTokens t.seq t) =
    (emitAll (t.seq.map fun k => encode (tokenRecord k)) t).complete (8 * t.seq.length) t.seq.length
      (cost (reg t.cmd.scheme) t.seq) := by
  have same : (emitAll (t.seq.map fun k => encode (tokenRecord k)) t).seq = t.seq := by rw [emitAll_frame]; rfl
  have scheme : (emitAll (t.seq.map fun k => encode (tokenRecord k)) t).cmd = t.cmd := by rw [emitAll_frame]; rfl
  rw [putTokens_eq_emitAll, finishParse, same, scheme]

/-- FIND opened: the candidates' records fit, and WRPTR is 0. -/
theorem openFind_ok {reg : Registry} {f : Bool} {s t : State} (h : openFind reg f s = .ok t) :
    ∃ C, 4 * C.length ≤ s.params.outCap ∧
      t = { s with cands := C, enc := { s.enc with wrptr := 0#32 }, stage := .putCands } := by
  unfold openFind at h
  split at h
  · cases h
  · dsimp only at h
    split at h
    · cases h
    · split at h
      · cases h
      · cases h
        exact ⟨_, Nat.le_of_not_lt ‹_›, rfl⟩

/-- PARSE opened: the tokens' records fit, and WRPTR is 0. -/
theorem openParse_ok {reg : Registry} {f : Bool} {s t : State} (h : openParse reg f s = .ok t) :
    ∃ dp T, 8 * T.length ≤ s.params.outCap ∧
      t = { s with dp := dp, seq := T, enc := { s.enc with wrptr := 0#32 }, stage := .putTokens } := by
  unfold openParse at h
  split at h
  · cases h
  · dsimp only at h
    split at h
    · cases h
    · cases h
      exact ⟨_, _, Nat.le_of_not_lt ‹_›, rfl⟩

theorem find_completes {reg : Registry} {f : Bool} {s v : State}
    (h : (openFind reg f s).map (fun t => finishFind (putCands t.cands t)) = .ok v) : Completes s v := by
  cases opened : openFind reg f s with
  | error e => rw [opened] at h; cases h
  | ok t =>
    rw [opened] at h
    cases h
    obtain ⟨C, fits, rfl⟩ := openFind_ok opened
    beta_reduce
    rw [finishFind_putCands]
    refine emitAll_completes ?_ ?_ ?_ (length_candRecords C) fits _ _
    · exact working_of_fields s _ _ _ _ _ _ _
    · rfl
    · rfl

theorem parse_completes {reg : Registry} {f : Bool} {s v : State}
    (h : (openParse reg f s).map (fun t => finishParse reg (putTokens t.seq t)) = .ok v) : Completes s v := by
  cases opened : openParse reg f s with
  | error e => rw [opened] at h; cases h
  | ok t =>
    rw [opened] at h
    cases h
    obtain ⟨dp, T, fits, rfl⟩ := openParse_ok opened
    beta_reduce
    rw [finishParse_putTokens]
    refine emitAll_completes ?_ ?_ ?_ (length_tokenRecords T) fits _ _
    · exact working_of_fields s _ _ _ _ _ _ _
    · rfl
    · rfl

/-! ## PRICE -/

theorem price_completes {reg : Registry} {f : Bool} {s : State} :
    ∃ r, priceOver reg f s = settle s r ∧ ∀ v, r = .ok v → Completes s v := by
  refine ⟨_, rfl, fun v h => ?_⟩
  split at h
  · cases h
  · split at h
    · cases h
    · cases h
      exact .intro (Working.refl s) _ _ (Nat.zero_le _) fun _ => .refl

/-! ## ENCODE and COMPRESS: a stream from the start of OUT -/

theorem putStream_completes {s t : State} (start : Working s t) (out : t.outMem = s.outMem) {framing : Bool}
    {T : List Token} (fits : streamLength framing T ≤ s.params.outCap) (preserve : Bool) (n : Nat) (m : BitVec 3)
    (a b : Nat) : Completes s ((t.putStream framing preserve n m T).complete (streamLength framing T) a b) := by
  refine .intro (start.trans (putStream_working t framing preserve n m T)) a b fits fun small => ?_
  exact out ▸ putStream_written t (Nat.lt_of_le_of_lt fits small)

/-- Past the common checks the input lies within IN. -/
theorem commonChecks_ok {reg : Registry} {c : Command} {f : Bool} {s : State} {S : Entry}
    (h : commonChecks reg c f s = .ok S) : s.cmd.n.toNat ≤ s.params.inCap := by
  unfold commonChecks at h
  split at h
  · cases h
  · exact Nat.le_of_not_lt ‹_›

/-- ENCODE opened: whole records, none read yet. -/
theorem openEncode_ok {reg : Registry} {f : Bool} {s t : State} (h : openEncode reg f s = .ok t) :
    s.cmd.n.toNat ≤ s.params.inCap ∧ s.cmd.n.toNat % 8 = 0 ∧ t = { s with seq := [], stage := .readRecords } := by
  unfold openEncode at h
  split at h
  · cases h
  · next checked =>
    split at h
    · cases h
    · split at h
      · cases h
      · cases h
        exact ⟨commonChecks_ok checked, not_not.mp ‹_›, rfl⟩

theorem takeMatch_ok {reg : Registry} {l d : BitVec 16} {s t : State} (h : takeMatch reg l d s = .ok t) :
    t = s.setSeq (s.seq ++ [.mat l.toNat d.toNat]) := by
  unfold takeMatch at h
  split at h <;> cases h
  rfl

/-- A record that is read adds its token to the sequence. -/
theorem readRecord_ok {reg : Registry} {s t : State} (h : readRecord reg s = .ok t) :
    ∃ k, t = s.setSeq (s.seq ++ [k]) := by
  unfold readRecord at h
  split at h
  · cases h
    exact ⟨_, rfl⟩
  · exact ⟨_, takeMatch_ok h⟩
  · cases h
  · cases h

theorem readRecords_ok {reg : Registry} {k : Nat} {s t : State} (h : readRecords reg k s = .ok t) :
    ∃ T, t = s.setSeq T := by
  induction k generalizing s with
  | zero => cases h; exact ⟨_, rfl⟩
  | succ k ih =>
    unfold readRecords at h
    split at h
    · cases h
    · next u read =>
      obtain ⟨_, rfl⟩ := readRecord_ok read
      obtain ⟨T, rfl⟩ := ih h
      exact ⟨T, rfl⟩

theorem finishEncode_completes {f p : Bool} {s t v : State} (start : Working s t) (out : t.outMem = s.outMem)
    (h : finishEncode f p t = .ok v) : Completes s v := by
  unfold finishEncode at h
  split at h
  · cases h
  · split at h
    · cases h
    · split at h
      · cases h
      · cases h
        exact putStream_completes start out (start.keeps.params ▸ Nat.le_of_not_lt ‹_›) _ _ _ _ _

theorem encode_completes {reg : Registry} {f p : Bool} {s v : State} (h : encodeResult reg f p s = .ok v) :
    Completes s v := by
  unfold encodeResult at h
  split at h
  · cases h
  · next opened =>
    obtain ⟨_, _, rfl⟩ := openEncode_ok opened
    split at h
    · cases h
    · next read =>
      obtain ⟨T, rfl⟩ := readRecords_ok read
      refine finishEncode_completes ?_ ?_ h
      · exact working_of_fields s _ _ _ _ _ _ _
      · rfl

theorem compressRaw_completes {m : BitVec 3} {s v : State} (h : compressRaw m s = .ok v) : Completes s v := by
  unfold compressRaw at h
  split at h
  · cases h
  · next fits =>
    cases h
    have wrptr : (s.putStreamHeader true false s.cmd.n.toNat m).enc.wrptr.toNat = 4 :=
      putStreamHeader_wrptr s true false s.cmd.n.toNat m
    refine .intro ((putStreamHeader_working s true false _ m).trans (emit_working _ _)) _ _ (Nat.le_of_not_lt fits)
      fun _ => ?_
    rw [State.emit_outMem, wrptr]
    exact ((putStreamHeader_written s true false _ m).mono (by simp [headerLength])).writeBytes
      (by simp [State.input])

theorem compress_completes {reg : Registry} {f p : Bool} {s v : State} (h : compressResult reg f p s = .ok v) :
    Completes s v := by
  unfold compressResult at h
  split at h
  · cases h
  · split at h
    · cases h
    · split at h
      · cases h
      · split at h
        · exact compressRaw_completes h
        · unfold compressTokens at h
          dsimp only at h
          split at h
          · cases h
          · cases h
            exact putStream_completes (Working.refl s) rfl (Nat.le_of_not_lt ‹_›) _ _ _ _ _

/-! ## DECOMPRESS: the header stage -/

/-- An encoding has the bytes of its form. -/
theorem length_encode (i : Instr) : (encode i).length = Laws.formLength i.form := by
  cases i <;> rfl

/-- Fewer bytes than the form needs are no instruction. -/
theorem decode_short {f : Form} {bs : List Byte} (other : f ≠ .command) (short : bs.length < Laws.formLength f) :
    ∃ e, decode f bs = .error e := by
  cases decoded : decode f bs with
  | error e => exact ⟨e, rfl⟩
  | ok r =>
    obtain ⟨i, rest⟩ := r
    obtain ⟨_, rfl, bytes⟩ := decodedBytesReencode f bs rest i decoded
    rw [bytes other, List.length_append, length_encode] at short
    omega

section
variable {s : State} {framing : Bool}

theorem fetchHeader_short (short : s.cmd.n.toNat < headerLength framing) :
    fetchHeader framing s = .ended (.next (s.errorEntry .malformedHeader 0)) := by
  have few (k : Nat) : (s.headerWindow k).length ≤ s.cmd.n.toNat := by simp [State.headerWindow]
  cases framing with
  | true =>
    obtain ⟨e, rejected⟩ := decode_short (f := .methodWord) (by decide) (Nat.lt_of_le_of_lt (few 4) short)
    rw [fetchHeader, if_pos rfl, rejected]
  | false =>
    obtain ⟨e, rejected⟩ := decode_short (f := .header16) (by decide) (Nat.lt_of_le_of_lt (few 16) short)
    rw [fetchHeader, if_neg (by decide), rejected]

theorem fetchHeader_word (long : 4 ≤ s.cmd.n.toNat) :
    fetchHeader true s = .instr (.mword
      ((le32 (s.inMem.read 0) (s.inMem.read 1) (s.inMem.read 2) (s.inMem.read 3)).extractLsb' 3 29)
      ((le32 (s.inMem.read 0) (s.inMem.read 1) (s.inMem.read 2) (s.inMem.read 3)).extractLsb' 0 3)) := by
  rw [fetchHeader, if_pos rfl, State.headerWindow, Nat.min_eq_left long]
  rfl

theorem fetchHeader_header16 (long : 16 ≤ s.cmd.n.toNat) :
    fetchHeader false s = .instr (.hdr16
      (le32 (s.inMem.read 0) (s.inMem.read 1) (s.inMem.read 2) (s.inMem.read 3))
      (le64 (s.inMem.read 4) (s.inMem.read 5) (s.inMem.read 6) (s.inMem.read 7)
        (s.inMem.read 8) (s.inMem.read 9) (s.inMem.read 10) (s.inMem.read 11))
      (le32 (s.inMem.read 12) (s.inMem.read 13) (s.inMem.read 14) (s.inMem.read 15))) := by
  rw [fetchHeader, if_neg (by decide), State.headerWindow, Nat.min_eq_left long]
  rfl

end

/-- What the header stage does with a declared size: the command ends, or the stream stage starts behind the header, or
the raw body is copied and the stream stage is at its end. -/
inductive HeaderTurn (size : Nat) (s : State) : Outcome → Prop
  | raised (e : ErrCode) (off : Nat) : HeaderTurn size s (.next (s.errorEntry e off))
  | refused (r : Refusal) : HeaderTurn size s (.refused r)
  | starts (start z : Word) (same : z.toNat = size) (fits : size ≤ s.params.outCap)
      (behind : start.toNat ≤ s.cmd.n.toNat) : HeaderTurn size s (.next (s.startStream start z))
  | copies (fits : size ≤ s.params.outCap) (present : 4 + size ≤ s.cmd.n.toNat) :
      HeaderTurn size s (.next (s.copyRaw size))

theorem enterMethod_turn {s : State} (S : Entry) (size : BitVec 29) (long : 4 ≤ s.cmd.n.toNat) :
    HeaderTurn size.toNat s (enterMethod S size s) := by
  unfold enterMethod
  split
  · exact .refused _
  · split
    · exact .raised _ _
    · split
      · split
        · exact .raised _ _
        · exact .copies (by omega) (by omega)
      · exact .starts _ _ (toNat_u32_size size).1 (by omega) long

theorem mword_turn (size : BitVec 29) (m : BitVec 3) (s : State) :
    HeaderTurn size.toNat s (exec (.mword size m) s) := by
  by_cases long : 4 ≤ s.cmd.n.toNat
  · cases mapped : methodScheme s.params m with
    | none =>
      rw [execMword_unmapped long mapped]
      exact .raised _ _
    | some id =>
      cases check : checkEntry (registry id) with
      | error e =>
        rw [execMword_error long mapped check]
        cases e with
        | raise e off => exact .raised e off
        | refuse r => exact .refused r
      | ok S =>
        rw [execMword_enters long mapped check]
        exact enterMethod_turn S size long
  · rw [execMword_short (Nat.lt_of_not_le long)]
    exact .raised _ _

theorem hdr16_turn (tag : BitVec 32) (rsvd : BitVec 64) (size : BitVec 32) (s : State) :
    HeaderTurn size.toNat s (exec (.hdr16 tag rsvd size) s) := by
  by_cases long : 16 ≤ s.cmd.n.toNat
  · by_cases same : tag = s.params.containerTag
    · by_cases fits : size.toNat ≤ s.params.outCap
      · rw [execHdr16_starts long same fits]
        exact .starts _ _ rfl fits long
      · rw [execHdr16_capacity long same (Nat.lt_of_not_le fits)]
        exact .raised _ _
    · rw [execHdr16_wrongTag long same]
      exact .raised _ _
  · rw [execHdr16_short (Nat.lt_of_not_le long)]
    exact .raised _ _

/-- The upper 29 bits of a word are its value divided by 8. -/
theorem toNat_size (w : Word) : (w.extractLsb' 3 29).toNat = w.toNat / 8 := by
  rw [BitVec.extractLsb'_toNat, Nat.shiftRight_eq_div_pow]
  omega

theorem headerTurn (framing : Bool) (s : State) :
    HeaderTurn (declaredSize s framing) s (internalTurn (fetchHeader framing s) s) := by
  by_cases short : s.cmd.n.toNat < headerLength framing
  · rw [fetchHeader_short short]
    exact .raised _ _
  · have long := Nat.le_of_not_lt short
    cases framing with
    | true =>
      rw [fetchHeader_word long, internalTurn, internalExec_eq_exec rfl, declaredSize, if_pos rfl, ← toNat_size]
      exact mword_turn _ _ _
    | false =>
      rw [fetchHeader_header16 long, internalTurn, internalExec_eq_exec rfl]
      exact hdr16_turn _ _ _ _

/-! ## DECOMPRESS: the stream loop -/

/-- The errors of the stream stage, which leave the declared output unspecified (R251). -/
def ErrCode.ofStream (e : ErrCode) : Prop := e = .truncatedStream ∨ e = .invalidMatch ∨ e = .overrun

/-- What a turn of the stream loop does: the end, an error, a control byte, or a token that moves OUTPOS within SIZE. -/
inductive StreamTurn (s : State) : Outcome → Prop
  | finished (past : s.dec.size.toNat ≤ s.dec.outpos.toNat) : StreamTurn s (.next (finishDecompress s))
  | raised {e : ErrCode} (kind : e.ofStream) (off : Nat) : StreamTurn s (.next (s.streamError e off))
  | control (f : Byte) (due : s.dec.outpos.toNat < s.dec.size.toNat) (none : s.dec.bitsLeft = 0)
      (left : s.dec.rdptr.toNat + 1 ≤ s.cmd.n.toNat) :
      StreamTurn s (.next (s.setDec { s.dec with rdptr := s.dec.rdptr + u32 1, flags := f, bitsLeft := 8 }))
  | token {m : Memory} {len out : Nat} (some : s.dec.bitsLeft ≠ 0) (left : s.dec.rdptr.toNat + len ≤ s.cmd.n.toNat)
      (pos : 1 ≤ out) (fits : s.dec.outpos.toNat + out ≤ s.dec.size.toNat)
      (written : WrittenBelow s.dec.size.toNat s.outMem m) :
      StreamTurn s (.next ((s.setOut m).setDec (s.dec.afterToken len out)))

theorem literal_turn {s : State} (b : Byte) (due : s.dec.outpos.toNat < s.dec.size.toNat)
    (some : s.dec.bitsLeft ≠ 0) : StreamTurn s (exec (.lit b) s) := by
  by_cases left : s.dec.rdptr.toNat < s.cmd.n.toNat
  · rw [execLit_left b left]
    exact .token some left (Nat.le_refl 1) due (WrittenBelow.refl.write due b)
  · rw [execLit_short b (Nat.le_of_not_lt left)]
    exact .raised (.inl rfl) _

theorem match_turn {s : State} {l : Nat} (d : Nat) (pos : 1 ≤ l) (some : s.dec.bitsLeft ≠ 0) :
    StreamTurn s (exec (.matchTok l d) s) := by
  by_cases left : s.dec.rdptr.toNat + 2 ≤ s.cmd.n.toNat
  · by_cases history : d ≤ s.dec.outpos.toNat
    · by_cases fits : s.dec.outpos.toNat + l ≤ s.dec.size.toNat
      · rw [execMatchTok_copies left history fits]
        exact .token some left pos fits (WrittenBelow.refl.copyMatch [] d fits)
      · rw [execMatchTok_overrun left history (Nat.lt_of_not_le fits)]
        exact .raised (.inr (.inr rfl)) _
    · rw [execMatchTok_invalid left (Nat.lt_of_not_le history)]
      exact .raised (.inr (.inl rfl)) _
  · rw [execMatchTok_truncated (Nat.lt_of_not_le left)]
    exact .raised (.inl rfl) _

theorem streamTurn (s : State) : StreamTurn s (internalTurn (fetchStream s) s) := by
  by_cases due : s.dec.outpos.toNat < s.dec.size.toNat
  · rw [streamTurn_eq_exec due, nextStreamInstr]
    split
    · next none =>
      by_cases left : s.dec.rdptr.toNat < s.cmd.n.toNat
      · rw [execCtrlbyte_left _ left]
        exact .control _ due none left
      · rw [execCtrlbyte_short _ (Nat.le_of_not_lt left)]
        exact .raised (.inl rfl) _
    · next some =>
      split
      · exact match_turn _ (Nat.le_add_left 1 _) some
      · exact literal_turn _ due some
  · rw [streamTurn_of_end (Nat.le_of_not_lt due)]
    exact .finished (Nat.le_of_not_lt due)

/-- Turns that the loop still needs at most: each token writes a byte, and a control byte precedes a token. -/
def DecRegs.turnsLeft (d : DecRegs) : Nat :=
  if d.size.toNat ≤ d.outpos.toNat then 1
  else 2 * (d.size.toNat - d.outpos.toNat) + if d.bitsLeft = 0 then 1 else 0

section
variable {d : DecRegs}

theorem DecRegs.turnsLeft_pos : 1 ≤ d.turnsLeft := by
  unfold turnsLeft
  split
  · exact Nat.le_refl 1
  · omega

theorem DecRegs.turnsLeft_le : d.turnsLeft ≤ 2 * (d.size.toNat - d.outpos.toNat) + 1 := by
  unfold turnsLeft
  split
  · omega
  · split <;> omega

theorem DecRegs.turnsLeft_control (due : d.outpos.toNat < d.size.toNat) (none : d.bitsLeft = 0) :
    d.turnsLeft = 2 * (d.size.toNat - d.outpos.toNat) + 1 := by
  rw [turnsLeft, if_neg (by omega), if_pos none]

theorem DecRegs.turnsLeft_token (due : d.outpos.toNat < d.size.toNat) (some : d.bitsLeft ≠ 0) :
    d.turnsLeft = 2 * (d.size.toNat - d.outpos.toNat) := by
  rw [turnsLeft, if_neg (by omega), if_neg some, Nat.add_zero]

end

/-- `u` is reached from `s` inside the stream stage: SIZE is as it was, and OUT is written below it. -/
structure InStream (s u : State) : Prop where
  working : Working s u
  stage   : u.stage = .stream
  size    : u.dec.size = s.dec.size
  written : WrittenBelow s.dec.size.toNat s.outMem u.outMem

theorem InStream.trans {s t u : State} (h : InStream s t) (h' : InStream t u) : InStream s u :=
  ⟨h.working.trans h'.working, h'.stage, h'.size.trans h.size, h.written.trans (h.size ▸ h'.written)⟩

/-- A turn that does not end the command stays in the stream stage and needs a turn less. -/
theorem StreamTurn.goes_on {s t : State} (turn : StreamTurn s (.next t)) (stage : s.stage = .stream)
    (opened : t.stage = .stream) : InStream s t ∧ t.dec.turnsLeft + 1 ≤ s.dec.turnsLeft := by
  cases turn with
  | finished _ => cases opened
  | raised _ _ => cases opened
  | control f due none left =>
    refine ⟨⟨working_of_fields s _ _ _ _ _ _ _, stage, rfl, .refl⟩, ?_⟩
    rw [DecRegs.turnsLeft_control due none, State.setDec_dec]
    exact Nat.succ_le_succ (DecRegs.turnsLeft_token (d := { s.dec with bitsLeft := 8 }) due (Nat.succ_ne_zero 7)).le
  | @token m len out some left pos fits written =>
    refine ⟨⟨working_of_fields s _ _ _ _ _ _ _, stage, rfl, written⟩, ?_⟩
    have moved : (s.dec.outpos + u32 out).toNat = s.dec.outpos.toNat + out :=
      toNat_add_u32 (Nat.lt_of_le_of_lt fits s.dec.size.isLt)
    have after := DecRegs.turnsLeft_le (d := s.dec.afterToken len out)
    rw [DecRegs.afterToken_size, DecRegs.afterToken_outpos, moved] at after
    rw [DecRegs.turnsLeft_token (by omega) some, State.setDec_dec]
    omega

/-- How a run of the stream loop ends. -/
inductive StreamEnd (s : State) : Outcome → Prop
  | done {u : State} (inStream : InStream s u) : StreamEnd s (.next (finishDecompress u))
  | raised {u : State} (inStream : InStream s u) {e : ErrCode} (kind : e.ofStream) (off : Nat) :
      StreamEnd s (.next (u.streamError e off))

theorem StreamEnd.of_later {s t : State} (start : InStream s t) {o : Outcome} (h : StreamEnd t o) : StreamEnd s o := by
  cases h with
  | done inStream => exact .done (start.trans inStream)
  | raised inStream kind off => exact .raised (start.trans inStream) kind off

theorem streamRun_of_ended {k : Nat} {s : State} (ended : s.stage ≠ .stream) : streamRun k s = .next s := by
  cases k <;> exact if_neg ended

/-- With a turn for each it needs, the loop runs to the end of the command: `Fault.turnBound` is never raised. -/
theorem streamRun_end {k : Nat} {s : State} (stage : s.stage = .stream) (enough : s.dec.turnsLeft ≤ k) :
    StreamEnd s (streamRun k s) := by
  induction k generalizing s with
  | zero => exact absurd enough (Nat.not_le_of_lt DecRegs.turnsLeft_pos)
  | succ k ih =>
    have here : InStream s s := ⟨Working.refl s, stage, rfl, .refl⟩
    rw [streamRun, if_pos stage]
    generalize turned : internalTurn (fetchStream s) s = o
    have turn : StreamTurn s o := turned ▸ streamTurn s
    have goesOn {t : State} (next : o = .next t) (opened : t.stage = .stream) : StreamEnd s (streamRun k t) := by
      obtain ⟨inStream, less⟩ := (next ▸ turn).goes_on stage opened
      exact (ih opened (by omega)).of_later inStream
    cases turn with
    | finished past =>
      rw [andThen, streamRun_of_ended (by rw [finishDecompress, State.complete_stage]; decide)]
      exact .done here
    | raised kind off =>
      rw [andThen, streamRun_of_ended (by rw [State.streamError_stage]; decide)]
      exact .raised here kind off
    | control f due none left => exact goesOn rfl stage
    | token some left pos fits written => exact goesOn rfl stage

/-- How a DECOMPRESS that runs in `s` ends. -/
inductive DecompressEnd (framing : Bool) (s : State) : Outcome → Prop
  | done {t : State} (h : Completes s t) : DecompressEnd framing s (.next t)
  | raised (e : ErrCode) (off : Nat) : DecompressEnd framing s (.next (s.errorEntry e off))
  | streamRaised {u : State} (working : Working s u) {e : ErrCode} (kind : e.ofStream) (off : Nat)
      (declared : u.dec.size.toNat = declaredSize s framing) (fits : u.dec.size.toNat ≤ s.params.outCap)
      (written : WrittenBelow u.dec.size.toNat s.outMem u.outMem) :
      DecompressEnd framing s (.next (u.streamError e off))
  | refused (r : Refusal) : DecompressEnd framing s (.refused r)

/-- From a state in the stream stage that wrote nothing beyond the declared size, the loop ends the command. -/
theorem StreamEnd.decompressEnd {framing : Bool} {s t : State} {o : Outcome} (h : StreamEnd t o) (start : Working s t)
    (declared : t.dec.size.toNat = declaredSize s framing) (fits : t.dec.size.toNat ≤ s.params.outCap)
    (written : WrittenBelow t.dec.size.toNat s.outMem t.outMem) : DecompressEnd framing s o := by
  cases h with
  | @done u inStream =>
    have small : u.dec.size.toNat ≤ s.params.outCap := by rw [inStream.size]; exact fits
    refine .done (.intro (start.trans inStream.working) _ _ small fun _ => ?_)
    rw [inStream.size]
    exact written.trans inStream.written
  | raised inStream kind off =>
    refine .streamRaised (start.trans inStream.working) kind off ?_ ?_ ?_ <;> rw [inStream.size]
    · exact declared
    · exact fits
    · exact written.trans inStream.written

theorem decompress_end (f p : Bool) (s : State) : DecompressEnd f s (exec (.decompress f p) s) := by
  show DecompressEnd f s (execDecompress f p s)
  unfold execDecompress
  split
  · next e _ =>
    cases e with
    | raise e off => exact .raised e off
    | refuse r => exact .refused r
  · have turn : HeaderTurn (declaredSize s f) (s.setStage .header)
      (internalTurn (fetchHeader f (s.setStage .header)) (s.setStage .header)) := headerTurn f (s.setStage .header)
    generalize internalTurn (fetchHeader f (s.setStage .header)) (s.setStage .header) = o at turn
    cases turn with
    | raised e off =>
      rw [andThen, streamRun_of_ended (by rw [State.errorEntry_stage]; decide)]
      exact .raised e off
    | refused r => exact .refused r
    | starts start size same fits behind =>
      have enough := DecRegs.turnsLeft_le (d := ((s.setStage .header).startStream start size).dec)
      exact (streamRun_end rfl enough).decompressEnd (working_of_fields s _ _ _ _ _ _ _) same (same.trans_le fits) .refl
    | copies fits present =>
      have small : (u32 (declaredSize s f)).toNat = declaredSize s f :=
        toNat_u32 (Nat.lt_of_le_of_lt (Nat.le_of_add_left_le present) s.cmd.n.isLt)
      have enough : ((s.setStage .header).copyRaw (declaredSize s f)).dec.turnsLeft ≤
          2 * (u32 (declaredSize s f)).toNat + 1 :=
        DecRegs.turnsLeft_le.trans (Nat.succ_le_succ (Nat.mul_le_mul_left 2 (Nat.sub_le _ _)))
      refine (streamRun_end rfl enough).decompressEnd (working_of_fields s _ _ _ _ _ _ _) small
        (small.trans_le fits) (WrittenBelow.refl.writeBytes ?_)
      show 0 + (s.inMem.readBytes 4 (declaredSize s f)).length ≤ (u32 (declaredSize s f)).toNat
      rw [small, Memory.length_readBytes, Nat.zero_add]

theorem DecompressEnd.ended {f : Bool} {s t : State} (h : DecompressEnd f s (.next t)) : Ended s t := by
  cases h with
  | done completes => exact completes.ended
  | raised e off => exact errorEntry_ended s e off
  | streamRaised working kind off _ _ _ => exact working.streamError_ended _ off

/-! ## Every command -/

/-- A command settles a run that completes, or it is DECOMPRESS. -/
theorem exec_command_cases {i : Instr} (command : isCommand i = true) (s : State) :
    (∃ r, exec i s = settle s r ∧ ∀ t, r = .ok t → Completes s t) ∨
      ∃ f p, i = .decompress f p ∧ DecompressEnd f s (exec i s) := by
  cases i with
  | ctrlbyte | lit | matchTok | hdr16 | mword | tokrecLit | tokrecMatch | candrec => cases command
  | find f p => exact .inl ⟨_, rfl, fun _ => find_completes⟩
  | price f p => exact .inl price_completes
  | parse f p => exact .inl ⟨_, rfl, fun _ => parse_completes⟩
  | encode f p => exact .inl ⟨_, rfl, fun _ => encode_completes⟩
  | compress f p => exact .inl ⟨_, rfl, fun _ => compress_completes⟩
  | decompress f p => exact .inr ⟨f, p, rfl, decompress_end f p s⟩

theorem exec_command_ended {i : Instr} (command : isCommand i = true) {s t : State} (h : exec i s = .next t) :
    Ended s t := by
  obtain ⟨r, settled, completes⟩ | ⟨f, p, rfl, ends⟩ := exec_command_cases command s
  · obtain done | ⟨e, off, _, rfl⟩ := settle_next (settled ▸ h)
    · exact (completes t done).ended
    · exact errorEntry_ended s e off
  · exact (h ▸ ends).ended

theorem exec_command_not_fault {i : Instr} (command : isCommand i = true) (s : State) (r : Fault) :
    exec i s ≠ .fault r := by
  obtain ⟨_, settled, _⟩ | ⟨f, p, rfl, ends⟩ := exec_command_cases command s
  · exact settled ▸ settle_not_fault s _ r
  · intro fault
    cases fault ▸ ends

/-- Settles O37: a command that settles raises from its start; DECOMPRESS raises another error before it writes, and the
stream's errors in a state that wrote below the declared size. -/
theorem errorsLeaveOutAsItWas : Obligations.ErrorsLeaveOutAsItWas := by
  intro i s t command h err
  obtain ⟨r, settled, completes⟩ | ⟨f, p, rfl, ends⟩ := exec_command_cases command s
  · have same : SameOut s t := by
      obtain done | ⟨e, off, _, rfl⟩ := settle_next (settled ▸ h)
      · cases completes t done
        cases err
      · exact fun _ => rfl
    exact ⟨fun _ => same, fun _ _ _ => same, fun _ _ _ a _ => same a⟩
  · refine ⟨fun other => absurd rfl (other f p), ?_⟩
    rw [h] at ends
    cases ends with
    | done completes =>
      cases completes
      cases err
    | raised e off => exact ⟨fun _ _ _ _ => rfl, fun _ _ _ _ _ => rfl⟩
    | @streamRaised u _ e kind off declared _ written =>
      refine ⟨fun truncated invalid overrun => ?_, fun f' p' same a outside => ?_⟩
      · obtain rfl | rfl | rfl := kind
        · exact absurd rfl truncated
        · exact absurd rfl invalid
        · exact absurd rfl overrun
      · cases same
        rw [State.streamError_outMem, Memory.read_drawBelow_outside _ _ _ (by omega)]
        exact written.read_eq (by omega)

theorem Params.outCap_lt {p : Params} (wf : p.wf = true) : p.outCap < 2 ^ 32 := by
  simp only [Params.wf, Bool.and_eq_true, decide_eq_true_eq] at wf
  omega

/-- Settles O38: a completion wrote below OUT_LEN, which no capacity of 32 bits lets wrap. -/
theorem doneLeavesOutBeyondOutLen : Obligations.DoneLeavesOutBeyondOutLen := by
  intro i s t command wf h done a beyond
  have completes : Completes s t := by
    obtain ⟨r, settled, completes⟩ | ⟨f, p, rfl, ends⟩ := exec_command_cases command s
    · obtain ok | ⟨e, off, _, rfl⟩ := settle_next (settled ▸ h)
      · exact completes t ok
      · cases done
    · rw [h] at ends
      cases ends with
      | done completes => exact completes
      | raised e off => cases done
      | streamRaised => cases done
  have small := Params.outCap_lt wf
  cases completes with
  | @intro u _ n a b fits written =>
    rw [State.complete_res, toNat_u32 (by omega)] at beyond
    exact (written small).read_eq beyond

end Sys2Proof.Machine
end

section
/-! PROOFS. What one step can do, said once: a host access, the engine's turn or its opening, or a reset. -/

namespace Sys2Proof.Machine

/-! ## What the engine fetches -/

/-- The latched command is decoded from its CTRL word, or its OP is reserved. -/
theorem fetchCommand_cases (s : State) :
    (∃ i, decodeCommand (ctrlWord true s.cmd.op s.cmd.framing s.cmd.preserve) = .ok i ∧ fetchCommand s = .instr i) ∨
      fetchCommand s = .ended (.next (s.errorEntry .illegalCommand 0)) := by
  have read := decode_command_putLE32 (ctrlWord true s.cmd.op s.cmd.framing s.cmd.preserve) []
  rw [List.append_nil] at read
  unfold fetchCommand
  cases decoded : decodeCommand (ctrlWord true s.cmd.op s.cmd.framing s.cmd.preserve) with
  | ok i => exact .inl ⟨i, rfl, by rw [read, decoded]; rfl⟩
  | error e => exact .inr (by rw [read, decoded]; rfl)

/-- The six latched commands, each with the latched FRAMING and RSVD_PRESERVE. -/
theorem latched_cases {s : State} {i : Instr}
    (h : decodeCommand (ctrlWord true s.cmd.op s.cmd.framing s.cmd.preserve) = .ok i) :
    (s.cmd.op = opFind ∧ i = .find s.cmd.framing s.cmd.preserve) ∨
    (s.cmd.op = opPrice ∧ i = .price s.cmd.framing s.cmd.preserve) ∨
    (s.cmd.op = opParse ∧ i = .parse s.cmd.framing s.cmd.preserve) ∨
    (s.cmd.op = opEncode ∧ i = .encode s.cmd.framing s.cmd.preserve) ∨
    (s.cmd.op = opCompress ∧ i = .compress s.cmd.framing s.cmd.preserve) ∨
    (s.cmd.op = opDecompress ∧ i = .decompress s.cmd.framing s.cmd.preserve) := by
  simpa using decodeCommand_cases h

theorem latched_command {s : State} {i : Instr}
    (h : decodeCommand (ctrlWord true s.cmd.op s.cmd.framing s.cmd.preserve) = .ok i) : isCommand i = true := by
  obtain ⟨_, rfl⟩ | ⟨_, rfl⟩ | ⟨_, rfl⟩ | ⟨_, rfl⟩ | ⟨_, rfl⟩ | ⟨_, rfl⟩ := latched_cases h <;> rfl

/-- A token record is the only instruction of its form. -/
theorem record_cases {i : Instr} (form : i.form = .record) :
    (∃ v, i = .tokrecLit v) ∨ ∃ l d, i = .tokrecMatch l d := by
  cases i <;> simp_all [Instr.form]

/-- While ENCODE reads and records are left, the turn is the reading of the next one. -/
theorem recordTurn_eq {s : State} (stage : s.stage = .readRecords) (left : 8 * s.seq.length < s.cmd.n.toNat) :
    internalTurn (fetchRecord s) s = settle s (readRecord registry s) := by
  rw [fetchRecord, if_neg (by omega), readRecord]
  cases decoded : decode .record (s.recordWindow s.seq.length) with
  | error e => rfl
  | ok r =>
    obtain ⟨i, rest⟩ := r
    have reads : ¬ s.stage = .putTokens := by simp [stage]
    obtain ⟨_, form, _⟩ := decodedBytesReencode _ _ _ _ decoded
    obtain ⟨v, rfl⟩ | ⟨l, d, rfl⟩ := record_cases form
    · exact if_neg reads
    · exact if_neg reads

theorem recordTurn_of_end {s : State} (past : s.cmd.n.toNat ≤ 8 * s.seq.length) :
    internalTurn (fetchRecord s) s = settle s (finishEncode s.cmd.framing s.cmd.preserve s) := by
  rw [fetchRecord, if_pos past]
  rfl

theorem candTurn_eq {s : State} {c : Cand} (next : s.cands[s.enc.wrptr.toNat / 4]? = some c) :
    internalTurn (fetchCand s) s = .next (s.emit (encode (candRecord c))) := by
  rw [fetchCand, next]
  rfl

theorem candTurn_of_end {s : State} (past : s.cands[s.enc.wrptr.toNat / 4]? = none) :
    internalTurn (fetchCand s) s = .next (finishFind s) := by
  rw [fetchCand, past]
  rfl

theorem tokenTurn_eq {s : State} {t : Token} (stage : s.stage = .putTokens)
    (next : s.seq[s.enc.wrptr.toNat / 8]? = some t) :
    internalTurn (fetchToken s) s = .next (s.emit (encode (tokenRecord t))) := by
  rw [fetchToken, next]
  cases t <;> exact if_pos stage

theorem tokenTurn_of_end {s : State} (past : s.seq[s.enc.wrptr.toNat / 8]? = none) :
    internalTurn (fetchToken s) s = .next (finishParse registry s) := by
  rw [fetchToken, past]
  rfl

/-! ## An instruction works on inside the command, or ends it -/

theorem HeaderTurn.working_or_ended {size : Nat} {s t : State} (h : HeaderTurn size s (.next t)) :
    Working s t ∨ Ended s t := by
  cases h with
  | raised e off => exact .inr (errorEntry_ended s e off)
  | starts => exact .inl (working_of_fields s _ _ _ _ _ _ _)
  | copies => exact .inl (working_of_fields s _ _ _ _ _ _ _)

theorem settle_working_or_ended {s t : State} {r : Except Stop State} (h : settle s r = .next t)
    (ok : ∀ u, r = .ok u → Working s u ∨ Ended s u) : Working s t ∨ Ended s t := by
  obtain done | ⟨e, off, _, rfl⟩ := settle_next h
  · exact ok t done
  · exact .inr (errorEntry_ended s e off)

theorem exec_working_or_ended {i : Instr} {s t : State} (h : exec i s = .next t) : Working s t ∨ Ended s t := by
  cases i with
  | find | price | parse | encode | compress | decompress => exact .inr (exec_command_ended rfl h)
  | ctrlbyte f =>
    change execCtrlbyte f s = .next t at h
    unfold execCtrlbyte at h
    split at h <;> cases h
    · exact .inr ((Working.refl s).streamError_ended _ _)
    · exact .inl (working_of_fields s _ _ _ _ _ _ _)
  | lit b =>
    change execLit b s = .next t at h
    unfold execLit at h
    split at h <;> cases h
    · exact .inr ((Working.refl s).streamError_ended _ _)
    · exact .inl (working_of_fields s _ _ _ _ _ _ _)
  | matchTok l d =>
    change execMatchTok l d s = .next t at h
    unfold execMatchTok at h
    split at h
    · cases h
      exact .inr ((Working.refl s).streamError_ended _ _)
    · split at h
      · cases h
        exact .inr ((Working.refl s).streamError_ended _ _)
      · split at h <;> cases h
        · exact .inr ((Working.refl s).streamError_ended _ _)
        · exact .inl (working_of_fields s _ _ _ _ _ _ _)
  | hdr16 tag rsvd size => exact (h ▸ hdr16_turn tag rsvd size s).working_or_ended
  | mword size m => exact (h ▸ mword_turn size m s).working_or_ended
  | tokrecLit v =>
    change execTokrecLit v s = .next t at h
    unfold execTokrecLit at h
    split at h <;> cases h
    · exact .inl (emit_working s _)
    · exact .inl (working_of_fields s _ _ _ _ _ _ _)
  | tokrecMatch l d =>
    change execTokrecMatch l d s = .next t at h
    unfold execTokrecMatch at h
    split at h
    · cases h
      exact .inl (emit_working s _)
    · exact settle_working_or_ended h fun u taken => .inl (takeMatch_ok taken ▸ working_of_fields s _ _ _ _ _ _ _)
  | candrec l d =>
    cases h
    exact .inl (emit_working s _)

/-- Settles O39: an instruction works on or ends its command, and either keeps the host's side. -/
theorem instructionsKeepTheHostSide : Obligations.InstructionsKeepTheHostSide := by
  intro i s t h
  obtain working | ended := exec_working_or_ended h
  · exact working.keeps
  · exact ended.keeps

/-! ## The engine's turns -/

/-- Where the fetch finds the end of the command, the command ends. -/
theorem fetch_ended {s t : State} (h : fetch s = .ended (.next t)) : Ended s t := by
  have completed (n a b : Nat) : Ended s (s.complete n a b) := (Working.refl s).complete_ended n a b
  cases stage : s.stage with
  | command =>
    rw [fetch_command stage] at h
    obtain ⟨i, _, found⟩ | found := fetchCommand_cases s <;> rw [found] at h <;> cases h
    exact errorEntry_ended s _ _
  | header =>
    rw [fetch_header stage, fetchHeader] at h
    split at h <;> cases h
    exact errorEntry_ended s _ _
  | stream =>
    rw [fetch_stream stage, fetchStream] at h
    split at h
    · cases h
      exact completed _ _ _
    · split at h <;> cases h
      exact (Working.refl s).streamError_ended _ _
  | readRecords =>
    rw [fetch_readRecords stage, fetchRecord] at h
    split at h
    · have settled : settle s (finishEncode s.cmd.framing s.cmd.preserve s) = .next t := Fetched.ended.inj h
      obtain done | ⟨e, off, _, rfl⟩ := settle_next settled
      · exact (finishEncode_completes (Working.refl s) rfl done).ended
      · exact errorEntry_ended s e off
    · split at h <;> cases h
      exact errorEntry_ended s _ _
  | putCands =>
    rw [fetch_putCands stage, fetchCand] at h
    split at h <;> cases h
    exact completed _ _ _
  | putTokens =>
    rw [fetch_putTokens stage, fetchToken] at h
    split at h <;> cases h
    exact completed _ _ _

theorem engineTurn_working_or_ended {s t : State} (h : engineTurn s = .next t) : Working s t ∨ Ended s t := by
  unfold engineTurn at h
  split at h
  · exact exec_working_or_ended h
  · exact .inr (fetch_ended (by rw [‹fetch s = _›, h]))

/-- Opening a command leaves it opened, or runs it whole, or ends it with an error of its checks. -/
theorem openTurn_working_or_ended {s t : State} (h : openTurn s = .next t) : Working s t ∨ Ended s t := by
  unfold openTurn at h
  obtain ⟨i, latched, found⟩ | found := fetchCommand_cases s <;> rw [found] at h
  · obtain ⟨_, rfl⟩ | ⟨_, rfl⟩ | ⟨_, rfl⟩ | ⟨_, rfl⟩ | ⟨_, rfl⟩ | ⟨_, rfl⟩ := latched_cases latched
    · refine settle_working_or_ended h fun u opened => ?_
      obtain ⟨C, _, rfl⟩ := openFind_ok opened
      exact .inl (working_of_fields s _ _ _ _ _ _ _)
    · exact exec_working_or_ended (i := .price _ _) h
    · refine settle_working_or_ended h fun u opened => ?_
      obtain ⟨dp, T, _, rfl⟩ := openParse_ok opened
      exact .inl (working_of_fields s _ _ _ _ _ _ _)
    · refine settle_working_or_ended h fun u opened => ?_
      obtain ⟨_, _, rfl⟩ := openEncode_ok opened
      exact .inl (working_of_fields s _ _ _ _ _ _ _)
    · exact exec_working_or_ended (i := .compress _ _) h
    · refine settle_working_or_ended h fun u opened => ?_
      cases checked : commonChecks registry .decompress s.cmd.framing s <;> rw [checked] at opened <;> cases opened
      exact .inl (working_of_fields s _ _ _ _ _ _ _)
  · cases h
    exact .inr (errorEntry_ended s _ _)

/-- The BUSY engine moves from `s`: its turn, or the opening of its command. -/
def EngineMove (s t : State) : Prop := engineTurn s = .next t ∨ (s.stage = .command ∧ openTurn s = .next t)

theorem EngineMove.working_or_ended {s t : State} (h : EngineMove s t) : Working s t ∨ Ended s t := by
  obtain turn | ⟨_, opening⟩ := h
  · exact engineTurn_working_or_ended turn
  · exact openTurn_working_or_ended opening

/-! ## The step -/

/-- The host writes bytes to a space, by index or at a platform address in it. -/
def StoresTo (s : State) (sp : Space) (a : Nat) (bs : List Byte) (rest : List Event) : Prop :=
  s.agenda = .store sp a bs :: rest ∨ ∃ addr, locate s.params addr = some (sp, a) ∧ s.agenda = .storeAt addr bs :: rest

/-- What a step that goes on can be. -/
inductive StepCase (s : State) : State → Prop
  /-- nothing but the outside's side and the draws changes -/
  | quiet {t : State} (ag : List Event) (hd : HostData) (k : Nat)
      (same : t = ((s.setAgenda ag).setHostData hd).setDraws k) : StepCase s t
  | csrStore {a : Nat} {w : Word} {rest : List Event} {c : Csr} (access : StoresTo s .csr a (putLE32 w) rest)
      (aligned : a % 4 = 0) (found : csrAt a = some c) : StepCase s (csrWrite c w (s.setAgenda rest))
  | inStore {a : Nat} {bs : List Byte} {rest : List Event} (access : StoresTo s .inBuf a bs rest)
      (idle : s.status.busy = false) (fits : a + bs.length ≤ s.params.inCap) :
      StepCase s ((s.setAgenda rest).setIn (s.inMem.writeBytes a bs))
  | outStore {a : Nat} {bs : List Byte} {rest : List Event} (access : StoresTo s .outBuf a bs rest)
      (idle : s.status.busy = false) (fits : a + bs.length ≤ s.params.outCap) :
      StepCase s ((s.setAgenda rest).setOut (s.outMem.writeBytes a bs))
  | engine {ag : List Event} {t : State} (busy : s.status.busy = true) (move : EngineMove (s.setAgenda ag) t) :
      StepCase s t
  | reset {rest : List Event} (h : s.agenda = .reset :: rest) : StepCase s (resetEvent (s.setAgenda rest))

theorem StepCase.read {s : State} (rest : List Event) (hd : HostData) :
    StepCase s ((s.setAgenda rest).setHostData hd) := .quiet rest hd s.draws rfl

theorem hostLoad_case {s t : State} {sp : Space} {a n : Nat} {rest : List Event}
    (h : hostLoad sp a n (s.setAgenda rest) = .next t) : StepCase s t := by
  cases sp with
  | csr =>
    simp only [hostLoad] at h
    split at h
    · cases h
    · split at h <;> cases h <;> exact .read rest _
  | inBuf =>
    simp only [hostLoad] at h
    split at h <;> cases h
    exact .read rest _
  | outBuf =>
    simp only [hostLoad] at h
    split at h
    · cases h
    · split at h <;> cases h
      · exact .quiet rest _ (s.draws + 1) rfl
      · exact .read rest _

theorem csrShape_none {a n : Nat} (h : csrShape a n = none) : n = 4 ∧ a % 4 = 0 ∧ a < 256 := by
  unfold csrShape at h
  split at h
  · cases h
  · split at h
    · cases h
    · omega

theorem hostStore_case {s t : State} {sp : Space} {a : Nat} {bs : List Byte} {rest : List Event}
    (access : StoresTo s sp a bs rest) (h : hostStore sp a bs (s.setAgenda rest) = .next t) : StepCase s t := by
  cases sp with
  | csr =>
    simp only [hostStore] at h
    split at h
    · cases h
    · next shape =>
      obtain ⟨four, aligned, inside⟩ := csrShape_none shape
      split at h <;> cases h
      · next c b0 b1 b2 b3 found => exact .csrStore (putLE32_le32 b0 b1 b2 b3 ▸ access) aligned found
      · exact .quiet rest s.hostData s.draws rfl
  | inBuf =>
    simp only [hostStore] at h
    split at h
    · cases h
    · next idle =>
      split at h <;> cases h
      exact .inStore access (Bool.eq_false_iff.mpr idle) (Nat.le_of_not_lt ‹_›)
  | outBuf =>
    simp only [hostStore] at h
    split at h
    · cases h
    · next idle =>
      split at h <;> cases h
      exact .outStore access (Bool.eq_false_iff.mpr idle) (Nat.le_of_not_lt ‹_›)

theorem engineOrIdle_case {s t : State} {ag : List Event} (h : engineOrIdle (s.setAgenda ag) = .next t) :
    StepCase s t := by
  unfold engineOrIdle at h
  split at h
  · exact .engine ‹_› (.inl h)
  · cases h
    exact .quiet ag s.hostData s.draws rfl

/-- Every step that goes on is one of the cases. -/
theorem step_cases {s t : State} (h : step s = .next t) : StepCase s t := by
  unfold step at h
  split at h
  · next ev rest agenda =>
    cases ev with
    | load sp a n => exact hostLoad_case h
    | store sp a bs => exact hostStore_case (.inl agenda) h
    | loadAt addr n =>
      simp only [eventStep, hostLoadAt] at h
      split at h
      · exact hostLoad_case h
      · cases h
    | storeAt addr bs =>
      simp only [eventStep, hostStoreAt] at h
      split at h
      · next located => exact hostStore_case (.inr ⟨addr, located, agenda⟩) h
      · cases h
    | wait =>
      simp only [eventStep, waitEvent] at h
      split at h
      · next busy => exact .engine (ag := s.agenda) busy (.inl h)
      · cases h
        exact .read rest _
    | engine => exact engineOrIdle_case h
    | internal =>
      simp only [eventStep, internalEvent] at h
      split at h
      · next opening =>
        rw [Bool.and_eq_true, decide_eq_true_eq] at opening
        exact .engine opening.1 (.inr ⟨opening.2, h⟩)
      · exact engineOrIdle_case h
    | reset =>
      cases h
      exact .reset agenda
  · exact engineOrIdle_case (ag := s.agenda) h

/-- A CSR write stores an operand (perhaps the one it holds), or the fields of CTRL, or starts a command while IDLE. -/
theorem csrWrite_cases (c : Csr) (w : Word) (s : State) :
    (∃ v, csrWrite c w s = s.setOpnd v) ∨ (∃ v, csrWrite c w s = s.setCtrl v) ∨
      (s.status.busy = false ∧ c = .ctrl ∧ w.getLsbD 0 = true ∧ csrWrite c w s = s.acceptStart w) := by
  by_cases busy : s.status.busy = true
  · exact .inl ⟨s.opnd, csrWrite_busy busy⟩
  · have idle := Bool.eq_false_iff.mpr busy
    obtain ⟨scheme, inLen, findPos, priceLen, priceDisp⟩ := csrWrite_operands (w := w) idle
    cases c with
    | ctrl =>
      have write : csrWrite .ctrl w s = writeCtrl w s := if_neg busy
      by_cases start : ctrlStart w = true
      · exact .inr (.inr ⟨idle, rfl, start, write.trans (if_pos start)⟩)
      · exact .inr (.inl ⟨_, write.trans (if_neg start)⟩)
    | scheme => exact .inl ⟨_, scheme⟩
    | inLen => exact .inl ⟨_, inLen⟩
    | findPos => exact .inl ⟨_, findPos⟩
    | priceLen => exact .inl ⟨_, priceLen⟩
    | priceDisp => exact .inl ⟨_, priceDisp⟩
    | status | outLen | result0 | result1 | errOffset | limMinLen | limMaxLen | limMinDisp | limMaxDisp | limUnit
    | limPreLen | schemeAttr | tag => exact .inl ⟨s.opnd, csrWrite_readOnly (by decide)⟩

/-- Settles O57: START is the one CSR write that changes STATUS, a turn that ends the command the one engine move. -/
theorem statusChangesOnlyByStartCompletionReset : Obligations.StatusChangesOnlyByStartCompletionReset := by
  intro s t h changed
  cases step_cases h with
  | quiet _ _ _ same => exact absurd (by rw [same]; rfl) changed
  | @csrStore a w rest c access aligned found =>
    obtain ⟨v, write⟩ | ⟨v, write⟩ | ⟨idle, rfl, start, write⟩ := csrWrite_cases c w (s.setAgenda rest)
    · exact absurd (by rw [write]; rfl) changed
    · exact absurd (by rw [write]; rfl) changed
    · obtain rfl : 0 = a := offset_of_csrAt aligned found
      exact .inl ⟨idle, by rw [write]; rfl, w, rest, start, access⟩
  | inStore => exact absurd rfl changed
  | outStore => exact absurd rfl changed
  | engine busy move =>
    obtain working | ended := move.working_or_ended
    · exact absurd working.status changed
    · exact .inr (.inl ⟨busy, ended.status⟩)
  | reset agenda => exact .inr (.inr ⟨rfl, _, agenda⟩)

/-- Settles O58: a turn that ends the command is the one move that writes the results, a host write to IN and reset the
two that change IN. -/
theorem resultsAndInputChangeOnlyAsStated : Obligations.ResultsAndInputChangeOnlyAsStated := by
  intro s t h
  have still {P Q : Prop} (res : t.res = s.res) (inMem : t.inMem = s.inMem) (params : t.params = s.params) :
      (t.res ≠ s.res → P) ∧ (t.inMem ≠ s.inMem → Q) ∧ t.params = s.params :=
    ⟨fun changed => absurd res changed, fun changed => absurd inMem changed, params⟩
  cases step_cases h with
  | quiet _ _ _ same =>
    subst same
    exact still rfl rfl rfl
  | @csrStore a w rest c access aligned found =>
    obtain ⟨v, write⟩ | ⟨v, write⟩ | ⟨_, _, _, write⟩ := csrWrite_cases c w (s.setAgenda rest) <;>
      rw [write] at still ⊢ <;> exact still rfl rfl rfl
  | @inStore a bs rest access idle fits =>
    exact ⟨fun changed => absurd rfl changed, fun _ => .inl ⟨idle, a, bs, rest, access⟩, rfl⟩
  | outStore => exact still rfl rfl rfl
  | engine busy move =>
    obtain working | ended := move.working_or_ended
    · exact ⟨fun changed => absurd working.res changed, fun changed => absurd working.keeps.inMem changed,
        working.keeps.params⟩
    · exact ⟨fun _ => .inl ⟨busy, ended.status_not_busy⟩, fun changed => absurd ended.keeps.inMem changed,
        ended.keeps.params⟩
  | reset agenda => exact ⟨fun _ => .inr ⟨_, agenda⟩, fun _ => .inr ⟨_, agenda⟩, rfl⟩

/-- Settles O36: a command ends or is refused, and the only step from BUSY to IDLE beside reset is such an end. -/
theorem everyCommandEnds : Obligations.EveryCommandEnds := by
  refine ⟨fun i s command => ?_, fun s t h busy idle noReset => ?_⟩
  · cases outcome : exec i s with
    | next t =>
      have ended := exec_command_ended command outcome
      exact .inl ⟨t, rfl, ended.released, ended.work, ended.status_not_busy, ended.done_ne_err, ended.status_legal⟩
    | fault r => exact absurd outcome (exec_command_not_fault command s r)
    | refused r => exact .inr ⟨r, rfl⟩
  · have still (same : t.status = s.status) : Released t ∧ WorkReleased s t := by
      rw [same, busy] at idle
      cases idle
    cases step_cases h with
    | quiet _ _ _ same => exact still (by rw [same]; rfl)
    | @csrStore a w rest c _ _ _ => exact still (by rw [csrWrite_busy (s := s.setAgenda rest) busy]; rfl)
    | inStore => exact still rfl
    | outStore => exact still rfl
    | engine busy move =>
      obtain working | ended := move.working_or_ended
      · exact still working.status
      · exact ⟨ended.released, ended.work.dec, ended.work.enc, ended.work.draws⟩
    | reset agenda => exact absurd agenda (noReset _)

/-- Settles O59: the codes as defined. -/
theorem errorCodesAreNumbered : Obligations.ErrorCodesAreNumbered :=
  ⟨rfl, rfl, rfl, rfl, rfl, rfl, rfl, rfl, rfl⟩

end Sys2Proof.Machine
end

section
/-! PROOFS. The invariant: it holds at reset, and every step keeps it, stage by stage. -/

namespace Sys2Proof.Machine

/-! ## The invariant taken apart -/

/-- A memory in canonical form within a capacity. -/
def Memory.Legal (m : Memory) (cap : Nat) : Prop := m.wf = true ∧ m.below cap = true

theorem WrittenBelow.legal {n cap : Nat} {m m' : Memory} (h : WrittenBelow n m m') (fits : n ≤ cap)
    (start : m.Legal cap) : m'.Legal cap :=
  ⟨h.wf start.1, h.cells_below fits start.2⟩

theorem State.memoryLegal_iff {s : State} :
    s.memoryLegal = true ↔ s.inMem.Legal s.params.inCap ∧ s.outMem.Legal s.params.outCap := by
  simp only [State.memoryLegal, Memory.Legal, Bool.and_eq_true]
  constructor
  · rintro ⟨⟨⟨inWf, outWf⟩, inBelow⟩, outBelow⟩
    exact ⟨⟨inWf, inBelow⟩, outWf, outBelow⟩
  · rintro ⟨⟨inWf, inBelow⟩, outWf, outBelow⟩
    exact ⟨⟨⟨inWf, outWf⟩, inBelow⟩, outBelow⟩

theorem State.engineLegal_iff {s : State} :
    s.engineLegal = true ↔ (s.status.busy = true ∨ s.stage = .command) ∧ s.dec.bitsLeft ≤ 8 ∧ s.enc.groupN ≤ 8 ∧
      s.stageLegal = true := by
  simp only [State.engineLegal, Bool.and_eq_true, Bool.or_eq_true, decide_eq_true_eq, and_assoc]

/-- The invariant with its parts named. -/
structure State.Legal (s : State) : Prop where
  params : s.params.wf = true
  status : s.status.legal = true
  input  : s.inMem.Legal s.params.inCap
  out    : s.outMem.Legal s.params.outCap
  phase  : s.status.busy = true ∨ s.stage = .command
  tags   : s.dec.bitsLeft ≤ 8
  group  : s.enc.groupN ≤ 8
  stage  : s.stageLegal = true

theorem State.inv_iff {s : State} : s.Inv ↔ s.Legal := by
  rw [State.Inv, State.memoryLegal_iff, State.engineLegal_iff]
  constructor
  · rintro ⟨params, status, ⟨input, out⟩, phase, tags, group, stage⟩
    exact ⟨params, status, input, out, phase, tags, group, stage⟩
  · rintro ⟨params, status, input, out, phase, tags, group, stage⟩
    exact ⟨params, status, ⟨input, out⟩, phase, tags, group, stage⟩

/-! ## What holds in each stage -/

section
variable {s : State}

theorem stageLegal_command (h : s.stage = .command) :
    s.stageLegal = true ↔ s.dp = none ∧ s.cands = [] ∧ s.seq = [] := by
  simp [State.stageLegal, h, and_assoc]

theorem stageLegal_header (h : s.stage = .header) :
    s.stageLegal = true ↔ s.cmd.op = opDecompress ∧ s.cmd.n.toNat ≤ s.params.inCap := by
  simp [State.stageLegal, h]

theorem stageLegal_stream (h : s.stage = .stream) :
    s.stageLegal = true ↔ s.cmd.op = opDecompress ∧ s.cmd.n.toNat ≤ s.params.inCap ∧
      s.dec.rdptr.toNat ≤ s.cmd.n.toNat ∧ s.dec.outpos.toNat ≤ s.dec.size.toNat ∧
      s.dec.size.toNat ≤ s.params.outCap := by
  simp only [State.stageLegal, h, Bool.and_eq_true, decide_eq_true_eq, and_assoc]

theorem stageLegal_readRecords (h : s.stage = .readRecords) :
    s.stageLegal = true ↔ s.cmd.op = opEncode ∧ s.cmd.n.toNat ≤ s.params.inCap ∧ s.cmd.n.toNat % 8 = 0 ∧
      8 * s.seq.length ≤ s.cmd.n.toNat := by
  simp only [State.stageLegal, h, Bool.and_eq_true, decide_eq_true_eq, and_assoc]

theorem stageLegal_putCands (h : s.stage = .putCands) :
    s.stageLegal = true ↔ s.cmd.op = opFind ∧ 4 * s.cands.length ≤ s.params.outCap ∧ s.enc.wrptr.toNat % 4 = 0 ∧
      s.enc.wrptr.toNat ≤ 4 * s.cands.length := by
  simp only [State.stageLegal, h, Bool.and_eq_true, decide_eq_true_eq, and_assoc]

theorem stageLegal_putTokens (h : s.stage = .putTokens) :
    s.stageLegal = true ↔ s.cmd.op = opParse ∧ 8 * s.seq.length ≤ s.params.outCap ∧ s.enc.wrptr.toNat % 8 = 0 ∧
      s.enc.wrptr.toNat ≤ 8 * s.seq.length := by
  simp only [State.stageLegal, h, Bool.and_eq_true, decide_eq_true_eq, and_assoc]

end

/-! ## Reset -/

theorem resetWith_legal {p : Params} (wf : p.wf = true) (k : Nat) (ag : List Event) :
    (State.resetWith p k ag).Legal where
  params := wf
  status := rfl
  input  := ⟨rfl, rfl⟩
  out    := ⟨rfl, rfl⟩
  phase  := .inr rfl
  tags   := Nat.zero_le 8
  group  := Nat.zero_le 8
  stage  := (stageLegal_command rfl).mpr ⟨rfl, rfl, rfl⟩

/-- Settles O55: the reset state part by part. -/
theorem invariantHoldsAtReset : Obligations.InvariantHoldsAtReset :=
  ⟨State.inv_iff.mpr (resetWith_legal (by decide) 0 []), fun _ k ag wf => State.inv_iff.mpr (resetWith_legal wf k ag)⟩

/-! ## The ends of a command, and its working states -/

section
variable {s t : State}

theorem Ended.legal (h : Ended s t) (legal : s.Legal) (out : t.outMem.Legal s.params.outCap) : t.Legal := by
  obtain ⟨⟨params, _, _, _, inMem, _, _⟩, _, ⟨dp, cands, seq, stage⟩, ⟨dec, enc, _⟩⟩ := id h
  refine ⟨?_, h.status_legal, ?_, ?_, .inr stage, ?_, ?_, (stageLegal_command stage).mpr ⟨dp, cands, seq⟩⟩
  · rw [params]; exact legal.params
  · rw [params, inMem]; exact legal.input
  · rw [params]; exact out
  · rw [dec]; exact releasedDec_bitsLeft _
  · rw [enc]; exact releasedEnc_groupN _

theorem errorEntry_legal (legal : s.Legal) (e : ErrCode) (off : Nat) : (s.errorEntry e off).Legal :=
  (errorEntry_ended s e off).legal legal legal.out

theorem complete_legal (legal : s.Legal) (n a b : Nat) : (s.complete n a b).Legal :=
  ((Working.refl s).complete_ended n a b).legal legal legal.out

theorem streamError_legal (legal : s.Legal) (fits : s.dec.size.toNat ≤ s.params.outCap) (e : ErrCode) (off : Nat) :
    (s.streamError e off).Legal :=
  ((Working.refl s).streamError_ended e off).legal legal ((WrittenBelow.refl.drawBelow s.draws).legal fits legal.out)

theorem Completes.legal (h : Completes s t) (legal : s.Legal) : t.Legal := by
  refine h.ended.legal legal ?_
  cases h with
  | intro _ _ _ fits written => exact (written (Params.outCap_lt legal.params)).legal fits legal.out

/-- A working state of a BUSY engine is legal with its OUT, its counters and its stage. -/
theorem Working.legal (h : Working s t) (legal : s.Legal) (busy : s.status.busy = true)
    (out : t.outMem.Legal s.params.outCap) (tags : t.dec.bitsLeft ≤ 8) (group : t.enc.groupN ≤ 8)
    (stage : t.stageLegal = true) : t.Legal := by
  obtain ⟨⟨params, _, _, _, inMem, _, _⟩, status, _, _⟩ := h
  refine ⟨?_, ?_, ?_, ?_, .inl ?_, tags, group, stage⟩
  · rw [params]; exact legal.params
  · rw [status]; exact legal.status
  · rw [params, inMem]; exact legal.input
  · rw [params]; exact out
  · rw [status]; exact busy

/-- A command run whole ends in a legal state. -/
theorem exec_command_legal {i : Instr} (command : isCommand i = true) (legal : s.Legal) (h : exec i s = .next t) :
    t.Legal := by
  obtain ⟨r, settled, completes⟩ | ⟨f, p, rfl, ends⟩ := exec_command_cases command s
  · obtain done | ⟨e, off, _, rfl⟩ := settle_next (settled ▸ h)
    · exact (completes t done).legal legal
    · exact errorEntry_legal legal e off
  · rw [h] at ends
    cases ends with
    | done completes => exact completes.legal legal
    | raised e off => exact errorEntry_legal legal e off
    | streamRaised working kind off declared fits written =>
      exact (working.streamError_ended _ off).legal legal ((written.drawBelow _).legal fits legal.out)

/-! ## One turn in each stage -/

/-- The header stage starts the stream within the input and the declared size within OUT. -/
theorem HeaderTurn.legal {size : Nat} (h : HeaderTurn size s (.next t)) (legal : s.Legal) (busy : s.status.busy = true)
    (stage : s.stage = .header) : t.Legal := by
  obtain ⟨op, inside⟩ := (stageLegal_header stage).mp legal.stage
  cases h with
  | raised e off => exact errorEntry_legal legal e off
  | starts start z same fits behind =>
    refine Working.legal (working_of_fields s _ _ _ _ _ _ _) legal busy legal.out (Nat.zero_le 8) legal.group ?_
    exact (stageLegal_stream rfl).mpr ⟨op, inside, behind, Nat.zero_le _, same.trans_le fits⟩
  | copies fits present =>
    have small : (u32 size).toNat = size := toNat_u32 (Nat.lt_of_le_of_lt (Nat.le_of_add_left_le present) s.cmd.n.isLt)
    have behind : (u32 (4 + size)).toNat = 4 + size := toNat_u32 (Nat.lt_of_le_of_lt present s.cmd.n.isLt)
    have out : WrittenBelow size s.outMem (s.copyRaw size).outMem := WrittenBelow.refl.writeBytes (by simp)
    refine Working.legal (working_of_fields s _ _ _ _ _ _ _) legal busy (out.legal fits legal.out) (Nat.zero_le 8)
      legal.group ?_
    exact (stageLegal_stream rfl).mpr
      ⟨op, inside, behind.trans_le present, Nat.le_refl _, small.trans_le fits⟩

/-- A turn of the stream loop keeps RDPTR within the input and OUTPOS within SIZE. -/
theorem StreamTurn.legal (h : StreamTurn s (.next t)) (legal : s.Legal) (busy : s.status.busy = true)
    (stage : s.stage = .stream) : t.Legal := by
  obtain ⟨op, inside, rdptr, outpos, size⟩ := (stageLegal_stream stage).mp legal.stage
  cases h with
  | finished _ => exact complete_legal legal _ _ _
  | raised kind off => exact streamError_legal legal size _ off
  | control f due none left =>
    refine Working.legal (working_of_fields s _ _ _ _ _ _ _) legal busy legal.out (Nat.le_refl 8) legal.group ?_
    exact (stageLegal_stream (s := s.setDec { s.dec with rdptr := _, flags := f, bitsLeft := 8 }) stage).mpr
      ⟨op, inside, (toNat_rdptr_add left).trans_le left, outpos, size⟩
  | @token m len out some left pos fits written =>
    have moved : (s.dec.outpos + u32 out).toNat = s.dec.outpos.toNat + out :=
      toNat_add_u32 (Nat.lt_of_le_of_lt fits s.dec.size.isLt)
    refine Working.legal (working_of_fields s _ _ _ _ _ _ _) legal busy (written.legal size legal.out)
      ((Nat.sub_le _ 1).trans legal.tags) legal.group ?_
    exact (stageLegal_stream (s := (s.setOut m).setDec _) stage).mpr
      ⟨op, inside, (toNat_rdptr_add left).trans_le left, moved.trans_le fits, size⟩

/-- Reading a record keeps the sequence within the input; the end of the records is ENCODE's. -/
theorem recordTurn_legal (legal : s.Legal) (busy : s.status.busy = true) (stage : s.stage = .readRecords)
    (h : internalTurn (fetchRecord s) s = .next t) : t.Legal := by
  obtain ⟨op, inside, whole, read⟩ := (stageLegal_readRecords stage).mp legal.stage
  by_cases left : 8 * s.seq.length < s.cmd.n.toNat
  · rw [recordTurn_eq stage left] at h
    obtain taken | ⟨e, off, _, rfl⟩ := settle_next h
    · obtain ⟨k, rfl⟩ := readRecord_ok taken
      refine Working.legal (working_of_fields s _ _ _ _ _ _ _) legal busy legal.out legal.tags legal.group ?_
      refine (stageLegal_readRecords (s := s.setSeq (s.seq ++ [k])) stage).mpr ⟨op, inside, whole, ?_⟩
      rw [State.setSeq_seq, State.setSeq_cmd, List.length_append, List.length_singleton]
      omega
    · exact errorEntry_legal legal e off
  · rw [recordTurn_of_end (Nat.le_of_not_lt left)] at h
    obtain done | ⟨e, off, _, rfl⟩ := settle_next h
    · exact (finishEncode_completes (Working.refl s) rfl done).legal legal
    · exact errorEntry_legal legal e off

/-- A record emitted within OUT keeps the state legal, if WRPTR's place is legal in its stage. -/
theorem emit_legal {bs : List Byte} (legal : s.Legal) (busy : s.status.busy = true)
    (fits : s.enc.wrptr.toNat + bs.length ≤ s.params.outCap) (stage : (s.emit bs).stageLegal = true) :
    (s.emit bs).Legal := by
  refine (emit_working s bs).legal legal busy ?_ legal.tags legal.group stage
  exact (WrittenBelow.refl.writeBytes fits).legal (Nat.le_refl _) legal.out

/-- A record of `r` bytes within the records lies within OUT, and WRPTR behind it is on the next one. -/
theorem wrptr_next {bs : List Byte} {r k : Nat} (length : bs.length = r) (legal : s.Legal)
    (fits : r * k ≤ s.params.outCap) (aligned : s.enc.wrptr.toNat % r = 0) (inside : s.enc.wrptr.toNat / r < k) :
    s.enc.wrptr.toNat + r ≤ r * k ∧ (s.emit bs).enc.wrptr.toNat = s.enc.wrptr.toNat + r := by
  have whole : s.enc.wrptr.toNat = r * (s.enc.wrptr.toNat / r) := by
    have := Nat.div_add_mod s.enc.wrptr.toNat r
    omega
  have below : s.enc.wrptr.toNat + r ≤ r * k := by
    calc s.enc.wrptr.toNat + r = r * (s.enc.wrptr.toNat / r + 1) := by rw [Nat.mul_succ, ← whole]
      _ ≤ r * k := Nat.mul_le_mul_left r inside
  have small := Params.outCap_lt legal.params
  refine ⟨below, ?_⟩
  rw [State.emit_enc, ← length, toNat_add_u32 (by omega)]

theorem candTurn_legal (legal : s.Legal) (busy : s.status.busy = true) (stage : s.stage = .putCands)
    (h : internalTurn (fetchCand s) s = .next t) : t.Legal := by
  obtain ⟨op, fits, aligned, inside⟩ := (stageLegal_putCands stage).mp legal.stage
  cases next : s.cands[s.enc.wrptr.toNat / 4]? with
  | none =>
    rw [candTurn_of_end next] at h
    cases h
    exact complete_legal legal _ _ _
  | some c =>
    rw [candTurn_eq next] at h
    cases h
    obtain ⟨below, moved⟩ := wrptr_next (bs := encode (candRecord c)) (r := 4) rfl legal fits aligned
      (List.getElem?_eq_some_iff.mp next).1
    refine emit_legal legal busy (below.trans fits)
      ((stageLegal_putCands (s := s.emit _) stage).mpr ⟨op, fits, ?_, ?_⟩) <;> rw [moved]
    · omega
    · exact below

theorem tokenTurn_legal (legal : s.Legal) (busy : s.status.busy = true) (stage : s.stage = .putTokens)
    (h : internalTurn (fetchToken s) s = .next t) : t.Legal := by
  obtain ⟨op, fits, aligned, inside⟩ := (stageLegal_putTokens stage).mp legal.stage
  cases next : s.seq[s.enc.wrptr.toNat / 8]? with
  | none =>
    rw [tokenTurn_of_end next] at h
    cases h
    exact complete_legal legal _ _ _
  | some k =>
    rw [tokenTurn_eq stage next] at h
    cases h
    have length : (encode (tokenRecord k)).length = 8 := by cases k <;> rfl
    obtain ⟨below, moved⟩ := wrptr_next length legal fits aligned (List.getElem?_eq_some_iff.mp next).1
    refine emit_legal legal busy (length ▸ below.trans fits)
      ((stageLegal_putTokens (s := s.emit _) stage).mpr ⟨op, fits, ?_, ?_⟩) <;> rw [moved]
    · omega
    · exact below

/-- The engine's turn keeps the invariant in every stage. -/
theorem engineTurn_legal (legal : s.Legal) (busy : s.status.busy = true) (h : engineTurn s = .next t) : t.Legal := by
  cases stage : s.stage with
  | command =>
    rw [engineTurn, fetch_command stage] at h
    obtain ⟨i, latched, found⟩ | found := fetchCommand_cases s <;> simp only [found] at h
    · exact exec_command_legal (latched_command latched) legal h
    · cases h
      exact errorEntry_legal legal _ _
  | header =>
    rw [engineTurn_eq_internalTurn (by simp [stage]), fetch_header stage] at h
    exact (h ▸ headerTurn s.cmd.framing s).legal legal busy stage
  | stream =>
    rw [engineTurn_stream stage] at h
    exact (h ▸ streamTurn s).legal legal busy stage
  | readRecords =>
    rw [engineTurn_eq_internalTurn (by simp [stage]), fetch_readRecords stage] at h
    exact recordTurn_legal legal busy stage h
  | putCands =>
    rw [engineTurn_eq_internalTurn (by simp [stage]), fetch_putCands stage] at h
    exact candTurn_legal legal busy stage h
  | putTokens =>
    rw [engineTurn_eq_internalTurn (by simp [stage]), fetch_putTokens stage] at h
    exact tokenTurn_legal legal busy stage h

/-- A command is opened into the stage of its OP, with the bounds of its checks. -/
theorem openTurn_legal (legal : s.Legal) (busy : s.status.busy = true)
    (h : openTurn s = .next t) : t.Legal := by
  unfold openTurn at h
  obtain ⟨i, latched, found⟩ | found := fetchCommand_cases s <;> rw [found] at h
  · have opens {r : Except Stop State} (settled : settle s r = .next t) (ok : r = .ok t → t.Legal) : t.Legal := by
      obtain opened | ⟨e, off, _, rfl⟩ := settle_next settled
      · exact ok opened
      · exact errorEntry_legal legal e off
    obtain ⟨op, rfl⟩ | ⟨_, rfl⟩ | ⟨op, rfl⟩ | ⟨op, rfl⟩ | ⟨_, rfl⟩ | ⟨op, rfl⟩ := latched_cases latched
    · refine opens h fun opened => ?_
      obtain ⟨C, fits, rfl⟩ := openFind_ok opened
      refine Working.legal (working_of_fields s _ _ _ _ _ _ _) legal busy legal.out legal.tags legal.group ?_
      exact (stageLegal_putCands rfl).mpr ⟨op, fits, rfl, Nat.zero_le _⟩
    · exact exec_command_legal (i := .price _ _) rfl legal h
    · refine opens h fun opened => ?_
      obtain ⟨dp, T, fits, rfl⟩ := openParse_ok opened
      refine Working.legal (working_of_fields s _ _ _ _ _ _ _) legal busy legal.out legal.tags legal.group ?_
      exact (stageLegal_putTokens rfl).mpr ⟨op, fits, rfl, Nat.zero_le _⟩
    · refine opens h fun opened => ?_
      obtain ⟨inside, whole, rfl⟩ := openEncode_ok opened
      refine Working.legal (working_of_fields s _ _ _ _ _ _ _) legal busy legal.out legal.tags legal.group ?_
      exact (stageLegal_readRecords rfl).mpr ⟨op, inside, whole, Nat.zero_le _⟩
    · exact exec_command_legal (i := .compress _ _) rfl legal h
    · refine opens h fun opened => ?_
      cases checked : commonChecks registry .decompress s.cmd.framing s <;> rw [checked] at opened <;> cases opened
      refine Working.legal (working_of_fields s _ _ _ _ _ _ _) legal busy legal.out legal.tags legal.group ?_
      exact (stageLegal_header rfl).mpr ⟨op, commonChecks_ok checked⟩
  · cases h
    exact errorEntry_legal legal _ _

/-! ## The step -/

/-- START finds the engine IDLE, with nothing of an earlier command left. -/
theorem acceptStart_legal (legal : s.Legal) (idle : s.status.busy = false) (w : Word) : (s.acceptStart w).Legal := by
  have stage : s.stage = .command := legal.phase.resolve_left (by simp [idle])
  have nothing := (stageLegal_command stage).mp legal.stage
  exact ⟨legal.params, statusBusy_legal, legal.input, legal.out, .inl rfl, legal.tags, legal.group,
    (stageLegal_command rfl).mpr nothing⟩

theorem State.Legal.setAgenda (legal : s.Legal) (ag : List Event) : (s.setAgenda ag).Legal :=
  ⟨legal.params, legal.status, legal.input, legal.out, legal.phase, legal.tags, legal.group, legal.stage⟩

theorem csrWrite_legal (legal : s.Legal) (c : Csr) (w : Word) : (csrWrite c w s).Legal := by
  obtain ⟨v, write⟩ | ⟨v, write⟩ | ⟨idle, _, _, write⟩ := csrWrite_cases c w s <;> rw [write]
  · exact ⟨legal.params, legal.status, legal.input, legal.out, legal.phase, legal.tags, legal.group, legal.stage⟩
  · exact ⟨legal.params, legal.status, legal.input, legal.out, legal.phase, legal.tags, legal.group, legal.stage⟩
  · exact acceptStart_legal legal idle w

theorem StepCase.legal (h : StepCase s t) (legal : s.Legal) : t.Legal := by
  cases h with
  | quiet ag hd k same =>
    subst same
    exact ⟨legal.params, legal.status, legal.input, legal.out, legal.phase, legal.tags, legal.group, legal.stage⟩
  | csrStore => exact csrWrite_legal (legal.setAgenda _) _ _
  | inStore access idle fits =>
    have written := (WrittenBelow.refl.writeBytes fits).legal (Nat.le_refl _) legal.input
    exact ⟨legal.params, legal.status, written, legal.out, legal.phase, legal.tags, legal.group, legal.stage⟩
  | outStore access idle fits =>
    have written := (WrittenBelow.refl.writeBytes fits).legal (Nat.le_refl _) legal.out
    exact ⟨legal.params, legal.status, legal.input, written, legal.phase, legal.tags, legal.group, legal.stage⟩
  | @engine ag _ busy move =>
    obtain turn | ⟨_, opening⟩ := move
    · exact engineTurn_legal (legal.setAgenda ag) busy turn
    · exact openTurn_legal (legal.setAgenda ag) busy opening
  | reset => exact resetWith_legal legal.params _ _

end

/-- Settles O56: each case of a step keeps the parts of the invariant. -/
theorem stepKeepsTheInvariant : Obligations.StepKeepsTheInvariant := fun _ _ inv h =>
  State.inv_iff.mpr ((step_cases h).legal (State.inv_iff.mp inv))

end Sys2Proof.Machine
end

section
/-! PROOFS. What the engine runs next: the instruction whose bytes stand where it reads (R181, R203, R216), a word
placed there, and the checks that every command meets first (R245). -/

namespace Sys2Proof.Machine

/-! ## Bytes read from where they stand -/

theorem Memory.readBytes_add (m : Memory) (a j k : Nat) :
    m.readBytes a (j + k) = m.readBytes a j ++ m.readBytes (a + j) k := by
  induction j generalizing a with
  | zero => simp [Memory.readBytes]
  | succ j ih =>
    rw [Nat.add_right_comm, Memory.readBytes, ih, Memory.readBytes, List.cons_append, Nat.add_right_comm a 1 j,
      Nat.add_assoc]

/-- A read of bytes is the list that holds the byte at each index. -/
theorem Memory.readBytes_eq_iff {m : Memory} {a : Nat} {bs : List Byte} :
    m.readBytes a bs.length = bs ↔ ∀ k, k < bs.length → bs[k]? = some (m.read (a + k)) := by
  constructor
  · intro same k inside
    rw [← same, Memory.getElem?_readBytes m a inside]
  · intro holds
    apply List.ext_getElem?
    intro k
    by_cases inside : k < bs.length
    · rw [Memory.getElem?_readBytes m a inside, holds k inside]
    · rw [List.getElem?_eq_none (by simpa using inside), List.getElem?_eq_none (by simpa using inside)]

theorem Memory.readBytes_writeBytes (m : Memory) (a : Nat) (bs : List Byte) :
    (m.writeBytes a bs).readBytes a bs.length = bs :=
  Memory.readBytes_eq_iff.mpr fun _ inside => (Memory.read_writeBytes_inside m a bs inside).symm

/-- An instruction whose encoding stands in IN is read from any window that holds it. -/
theorem decode_of_inHolds {s : State} {i : Instr} {lo k : Nat} (wf : i.wellFormed = true)
    (holds : InHolds s lo (encode i)) (enough : (encode i).length ≤ k) :
    ∃ rest, decode i.form (s.inMem.readBytes lo k) = .ok (i, rest) := by
  obtain ⟨j, rfl⟩ := Nat.exists_eq_add_of_le enough
  rw [Memory.readBytes_add, Memory.readBytes_eq_iff.mpr holds]
  exact ⟨_, decodeOfEncodeGivesBack i _ wf⟩

/-- Only a match token's operands can be out of range. -/
theorem wellFormed_of_form {i : Instr} (other : i.form ≠ .matchPair) : i.wellFormed = true := by
  cases i with
  | matchTok => exact absurd rfl other
  | ctrlbyte | lit | hdr16 | mword | find | price | parse | encode | compress | decompress | tokrecLit | tokrecMatch
  | candrec => rfl

section
variable {s : State} {i : Instr}

theorem fetchHeader_of_inHolds {framing : Bool} (form : i.form = if framing then .methodWord else .header16)
    (holds : InHolds s 0 (encode i)) (long : (encode i).length ≤ s.cmd.n.toNat) :
    fetchHeader framing s = .instr i := by
  have wf : i.wellFormed = true := wellFormed_of_form (by rw [form]; split <;> decide)
  have enough {k : Nat} (length : Laws.formLength i.form = k) : (encode i).length ≤ min k s.cmd.n.toNat := by
    rw [← length, ← length_encode]
    omega
  unfold fetchHeader State.headerWindow
  cases framing with
  | true =>
    obtain ⟨rest, decoded⟩ := decode_of_inHolds wf holds (enough (k := 4) (by rw [form]; rfl))
    rw [form, if_pos rfl] at decoded
    rw [if_pos rfl, decoded]
  | false =>
    obtain ⟨rest, decoded⟩ := decode_of_inHolds wf holds (enough (k := 16) (by rw [form]; rfl))
    rw [form, if_neg (by decide)] at decoded
    rw [if_neg (by decide), decoded]

theorem fetchStream_of_inHolds (due : s.dec.outpos.toNat < s.dec.size.toNat) (wf : i.wellFormed = true)
    (form : i.form = s.dec.nextForm) (holds : InHolds s s.dec.rdptr.toNat (encode i))
    (left : s.dec.rdptr.toNat + (encode i).length ≤ s.cmd.n.toNat) : fetchStream s = .instr i := by
  have atMost : (encode i).length ≤ 2 := by
    rw [length_encode, form]
    obtain form | form | form := s.dec.nextForm_cases <;> rw [form] <;> decide
  obtain ⟨rest, decoded⟩ := decode_of_inHolds (k := min 2 (s.cmd.n.toNat - s.dec.rdptr.toNat)) wf holds (by omega)
  rw [form] at decoded
  rw [fetchStream, if_neg (by omega), State.streamWindow, decoded]

theorem fetchRecord_of_inHolds (form : i.form = .record) (holds : InHolds s (8 * s.seq.length) (encode i))
    (left : 8 * s.seq.length + 8 ≤ s.cmd.n.toNat) : fetchRecord s = .instr i := by
  have wf : i.wellFormed = true := wellFormed_of_form (by rw [form]; decide)
  obtain ⟨rest, decoded⟩ := decode_of_inHolds (k := 8) wf holds (by rw [length_encode, form]; decide)
  rw [form] at decoded
  rw [fetchRecord, if_neg (by omega), State.recordWindow, decoded]

theorem engineTurn_of_fetch (found : fetch s = .instr i) : engineTurn s = exec i s := by
  rw [engineTurn, found]

theorem fetchCommand_of_decode {rest : List Byte}
    (h : decode .command (putLE32 (ctrlWord true s.cmd.op s.cmd.framing s.cmd.preserve)) = .ok (i, rest)) :
    fetchCommand s = .instr i := by
  rw [fetchCommand, h]

theorem openTurn_of_fetch (found : fetchCommand s = .instr i) : openTurn s = openCommand i s := by
  rw [openTurn, found]

/-- On the event internal a command due as a whole is opened. -/
theorem step_internal {rest : List Event} (due : s.agenda = .internal :: rest) (busy : s.status.busy = true)
    (stage : s.stage = .command) : step s = openTurn (s.setAgenda rest) := by
  simp [step, due, eventStep, internalEvent, busy, stage]

end

/-- Settles O52: in each stage the fetch finds the instruction, and the step is the turn that runs it. -/
theorem stepRunsTheDecodedInstruction : Obligations.StepRunsTheDecodedInstruction := by
  refine ⟨fun s u i turn busy => ?_, fun s i rest bs due busy stage decoded => ?_⟩
  · rw [step_of_engineTurn turn busy]
    obtain ⟨ag, rfl⟩ := turn.setAgenda_eq
    have runs {i : Instr} {f : Fetched} (stage : fetch (s.setAgenda ag) = f) (found : f = .instr i) :
        engineTurn (s.setAgenda ag) = exec i (s.setAgenda ag) := engineTurn_of_fetch (stage.trans found)
    refine ⟨fun rest stage decoded => ?_, fun stage form holds long => ?_, fun stage due wf form holds left => ?_,
      fun stage form holds left => ?_, fun c stage next => ?_, fun k stage next => ?_⟩
    · exact runs (fetch_command (s := s.setAgenda ag) stage) (fetchCommand_of_decode (s := s.setAgenda ag) decoded)
    · exact runs (fetch_header (s := s.setAgenda ag) stage)
        (fetchHeader_of_inHolds (s := s.setAgenda ag) form holds long)
    · exact runs (fetch_stream (s := s.setAgenda ag) stage)
        (fetchStream_of_inHolds (s := s.setAgenda ag) due wf form holds left)
    · exact runs (fetch_readRecords (s := s.setAgenda ag) stage)
        (fetchRecord_of_inHolds (s := s.setAgenda ag) form holds left)
    · refine runs (fetch_putCands (s := s.setAgenda ag) stage) ?_
      simp only [fetchCand, State.setAgenda_cands, State.setAgenda_enc, next]
    · refine runs (fetch_putTokens (s := s.setAgenda ag) stage) ?_
      simp only [fetchToken, State.setAgenda_seq, State.setAgenda_enc, next]
  · exact (step_internal due busy stage).trans
      (openTurn_of_fetch (s := s.setAgenda rest) (fetchCommand_of_decode (s := s.setAgenda rest) decoded))

/-- Settles O51: with the engine IDLE none of the events finds a turn to take. -/
theorem idleEngineTakesNoStep : Obligations.IdleEngineTakesNoStep := by
  intro s idle
  refine ⟨fun due => ?_, fun rest due => ?_, fun rest due => ?_⟩
  · simp [step, due, engineOrIdle, idle]
  · obtain due | due := due
    · simp [step, due, eventStep, engineOrIdle, idle]
    · simp [step, due, eventStep, internalEvent, engineOrIdle, idle]
  · simp [step, due, eventStep, waitEvent, idle, csrRead]

/-! ## A placed word (log entry 14) -/

section
variable {s : State} {i : Instr} {rest bytes : List Byte} {op : BitVec 4} {framing : Bool}

/-- The bytes placed as a command's input are what IN reads there. -/
theorem withInput_inHolds (s : State) (op : BitVec 4) (framing : Bool) (bytes : List Byte) :
    InHolds (s.withInput op framing bytes) 0 bytes :=
  fun _ inside => (Memory.read_writeBytes_inside s.inMem 0 bytes inside).symm

theorem withInput_n (s : State) (op : BitVec 4) (framing : Bool) (short : bytes.length < 2 ^ 32) :
    (s.withInput op framing bytes).cmd.n.toNat = bytes.length := toNat_u32 short

/-- Bytes that are exactly one instruction, but a CTRL word, are its encoding. -/
theorem eq_encode_of_decode {f : Form} (decoded : decode f bytes = .ok (i, rest)) (other : f ≠ .command)
    (length : bytes.length = Laws.formLength f) : i.wellFormed = true ∧ i.form = f ∧ bytes = encode i := by
  obtain ⟨wf, form, bytesEq⟩ := decodedBytesReencode _ _ _ _ decoded
  have none : rest = [] := by
    have total := congrArg List.length (bytesEq other)
    rw [List.length_append, length_encode, form, length] at total
    exact List.length_eq_zero_iff.mp (by omega)
  exact ⟨wf, form, by rw [bytesEq other, none, List.append_nil]⟩

/-- An input that is one instruction's encoding holds it, to its end. -/
theorem withInput_encode (s : State) (op : BitVec 4) (framing : Bool) (i : Instr) :
    InHolds (s.withInput op framing (encode i)) 0 (encode i) ∧
      (s.withInput op framing (encode i)).cmd.n.toNat = (encode i).length := by
  have short : (encode i).length < 2 ^ 32 := by
    rw [length_encode]
    cases i.form <;> decide
  exact ⟨withInput_inHolds s op framing _, withInput_n s op framing short⟩

/-- Whatever form is asked for, with its number of bytes, is fetched from where `withForm` places it. -/
theorem fetch_withForm {f : Form} (decoded : decode f bytes = .ok (i, rest)) (length : bytes.length = Laws.formLength f)
    (placed : f ≠ .command ∧ f ≠ .candidate) : fetch (s.withForm f bytes) = .instr i := by
  obtain ⟨wf, form, rfl⟩ := eq_encode_of_decode decoded placed.1 length
  cases f with
  | command => exact absurd rfl placed.1
  | candidate => exact absurd rfl placed.2
  | header16 =>
    obtain ⟨holds, n⟩ := withInput_encode s opDecompress false i
    exact fetchHeader_of_inHolds (s := (s.withInput opDecompress false (encode i)).setStage .header) (framing := false)
      form holds n.ge
  | methodWord =>
    obtain ⟨holds, n⟩ := withInput_encode s opDecompress true i
    exact fetchHeader_of_inHolds (s := (s.withInput opDecompress true (encode i)).setStage .header) (framing := true)
      form holds n.ge
  | control =>
    obtain ⟨holds, n⟩ := withInput_encode s opDecompress false i
    exact fetchStream_of_inHolds (s := s.withForm .control (encode i)) Nat.zero_lt_one wf form holds
      ((Nat.zero_add _).trans_le n.ge)
  | literal =>
    obtain ⟨holds, n⟩ := withInput_encode s opDecompress false i
    have due : (s.withForm .literal (encode i)).dec.nextForm = .literal :=
      DecRegs.nextForm_literal (Nat.succ_ne_zero 7) (by decide : (0#8 : Byte).getLsbD 7 = false)
    exact fetchStream_of_inHolds (s := s.withForm .literal (encode i)) Nat.zero_lt_one wf (form.trans due.symm) holds
      ((Nat.zero_add _).trans_le n.ge)
  | matchPair =>
    obtain ⟨holds, n⟩ := withInput_encode s opDecompress false i
    have due : (s.withForm .matchPair (encode i)).dec.nextForm = .matchPair :=
      DecRegs.nextForm_matchPair (Nat.succ_ne_zero 7) (by decide : (0x80#8 : Byte).getLsbD 7 = true)
    exact fetchStream_of_inHolds (s := s.withForm .matchPair (encode i)) Nat.zero_lt_one wf (form.trans due.symm) holds
      ((Nat.zero_add _).trans_le n.ge)
  | record =>
    obtain ⟨holds, n⟩ := withInput_encode s opEncode false i
    rw [length_encode, form] at n
    exact fetchRecord_of_inHolds form holds n.ge

end

/-- `s` with a word placed is BUSY with nothing due before it. -/
theorem withForm_busy {s : State} {f : Form} {bytes : List Byte} (length : bytes.length = Laws.formLength f)
    (placed : f ≠ .candidate) :
    (s.withForm f bytes).status.busy = true ∧ (s.withForm f bytes).agenda = s.agenda := by
  cases f with
  | candidate => exact absurd rfl placed
  | command =>
    match bytes, length with
    | [_, _, _, _], _ => exact ⟨rfl, rfl⟩
  | header16 | methodWord | control | literal | matchPair | record => exact ⟨rfl, rfl⟩

/-- The table's bits stand for exactly one form's bytes. -/
theorem tableForm_length (nbits w : Nat) :
    (tableForm nbits w).2.length = Laws.formLength (tableForm nbits w).1 ∧ (tableForm nbits w).1 ≠ .candidate := by
  unfold tableForm
  split
  · exact ⟨rfl, nofun⟩
  · split
    · exact ⟨rfl, nofun⟩
    · split
      · split <;> exact ⟨rfl, nofun⟩
      · split <;> exact ⟨rfl, nofun⟩

/-- The bits of a CTRL word are placed as they are. -/
theorem tableForm_command {nbits w : Nat} (h : (tableForm nbits w).1 = .command) :
    (tableForm nbits w).2 = putLE32 (u32 w) := by
  unfold tableForm at *
  repeat' split
  all_goals simp_all

/-- The latched fields of a CTRL word with START = 1 decode to what the word itself does. -/
theorem fetch_acceptStart {s : State} {w : Word} {i : Instr} (h : decodeCommand w = .ok i) :
    fetch (s.acceptStart w) = .instr i := by
  have start : ctrlStart w = true := by
    unfold decodeCommand at h
    split at h
    · cases h
    · simpa using ‹¬ ctrlStart w = false›
  have fields : decodeCommand (ctrlWord true (ctrlOp w) (ctrlFraming w) (ctrlPreserve w)) = .ok i := by
    rw [← h]
    simp [decodeCommand, start]
  have latched := decode_command_putLE32 (ctrlWord true (ctrlOp w) (ctrlFraming w) (ctrlPreserve w)) []
  rw [List.append_nil, fields] at latched
  exact (fetch_command rfl).trans (fetchCommand_of_decode latched)

/-- Settles O53: the placed form is fetched, and the state with it is BUSY with nothing due. -/
theorem placedWordIsRunNext : Obligations.PlacedWordIsRunNext := by
  intro s nbits w i table
  obtain ⟨length, noCand⟩ := tableForm_length nbits w
  obtain ⟨busy, agenda⟩ := withForm_busy (s := s.setAgenda []) length noCand
  rw [State.withFetchWord, step_of_engineTurn (.nothingDue agenda) busy]
  apply engineTurn_of_fetch
  unfold decodeTableWord at table
  split at table <;> cases table
  rename_i rest decoded
  by_cases command : (tableForm nbits w).1 = .command
  · rw [command, tableForm_command command] at decoded ⊢
    have word := decode_command_putLE32 (u32 w) []
    rw [List.append_nil, decoded] at word
    have placed : (s.setAgenda []).withForm .command (putLE32 (u32 w)) = (s.setAgenda []).acceptStart (u32 w) := by
      simp [State.withForm, putLE32, le32_bytes]
    rw [placed]
    exact fetch_acceptStart (withRest_ok word.symm).1
  · exact fetch_withForm decoded length ⟨command, noCand⟩

end Sys2Proof.Machine
end

section
/-! PROOFS. Host accesses: the three spaces and their platform addresses (R60 to R67, R280 to R282), the registers a
read returns (R25 to R34), START (R215) and reset (R270). -/

namespace Sys2Proof.Machine

/-! ## The step that takes a host access -/

section
variable {s : State} {sp : Space} {a n : Nat} {bs : List Byte} {rest : List Event}

theorem step_load (h : s.agenda = .load sp a n :: rest) : step s = hostLoad sp a n (s.setAgenda rest) := by
  rw [step, h]
  rfl

theorem step_store (h : s.agenda = .store sp a bs :: rest) : step s = hostStore sp a bs (s.setAgenda rest) := by
  rw [step, h]
  rfl

theorem step_loadAt (h : s.agenda = .loadAt a n :: rest) : step s = hostLoadAt a n (s.setAgenda rest) := by
  rw [step, h]
  rfl

theorem step_storeAt (h : s.agenda = .storeAt a bs :: rest) : step s = hostStoreAt a bs (s.setAgenda rest) := by
  rw [step, h]
  rfl

/-! ## Accesses without a meaning -/

theorem csrShape_misshapen (shape : n ≠ 4 ∨ a % 4 ≠ 0) : csrShape a n = some .csrAccessShape := if_pos shape

theorem csrShape_outside (aligned : a % 4 = 0) (outside : 256 ≤ a) : csrShape a 4 = some .hostOutOfRange := by
  rw [csrShape, if_neg (by omega), if_pos outside]

theorem hostLoad_csr_refused {r : Refusal} (h : csrShape a n = some r) (s : State) :
    hostLoad .csr a n s = .refused r := by
  simp only [hostLoad, h]

theorem hostStore_csr_refused {r : Refusal} (h : csrShape a bs.length = some r) (s : State) :
    hostStore .csr a bs s = .refused r := by
  simp only [hostStore, h]

/-- A write to IN or OUT while BUSY is refused, whatever its range (R280). -/
theorem hostStore_busy (busy : s.status.busy = true) (buffer : sp ≠ .csr) :
    hostStore sp a bs s = .refused .hostWriteWhileBusy := by
  cases sp with
  | csr => exact absurd rfl buffer
  | inBuf => exact if_pos busy
  | outBuf => exact if_pos busy

theorem locate_none {p : Params} (csr : a < p.csrBase ∨ p.csrBase + 256 ≤ a)
    (inBuf : a < p.inBase ∨ p.inBase + p.inCap ≤ a) (outBuf : a < p.outBase ∨ p.outBase + p.outCap ≤ a) :
    locate p a = none := by
  rw [locate, if_neg (by omega), if_neg (by omega), if_neg (by omega)]

/-! ## Accesses to IN and OUT below the capacity -/

theorem hostStore_inBuf (idle : s.status.busy = false) (fits : a + bs.length ≤ s.params.inCap) :
    hostStore .inBuf a bs s = .next (s.setIn (s.inMem.writeBytes a bs)) := by
  rw [hostStore, if_neg (by simp [idle]), if_neg (by omega)]

theorem hostStore_outBuf (idle : s.status.busy = false) (fits : a + bs.length ≤ s.params.outCap) :
    hostStore .outBuf a bs s = .next (s.setOut (s.outMem.writeBytes a bs)) := by
  rw [hostStore, if_neg (by simp [idle]), if_neg (by omega)]

theorem hostLoad_inBuf (fits : a + n ≤ s.params.inCap) :
    hostLoad .inBuf a n s = .next (s.setHostData (.bytes (s.inMem.readBytes a n))) := if_neg (by omega)

theorem hostLoad_outBuf_idle (idle : s.status.busy = false) (fits : a + n ≤ s.params.outCap) :
    hostLoad .outBuf a n s = .next (s.setHostData (.bytes (s.outMem.readBytes a n))) := by
  rw [hostLoad, if_neg (by omega), if_neg (by simp [idle])]

/-- While BUSY the bytes of OUT are drawn (R282). -/
theorem hostLoad_outBuf_busy (busy : s.status.busy = true) (fits : a + n ≤ s.params.outCap) :
    hostLoad .outBuf a n s = .next
      ((s.setHostData (.bytes ((List.range' a n).map (Config.freeByte s.draws)))).setDraws (s.draws + 1)) := by
  rw [hostLoad, if_neg (by omega), if_pos busy]

end

/-- Settles O46: the access is refused by its shape, its range, the phase, or its address. -/
theorem meaninglessHostAccessesAreRefused : Obligations.MeaninglessHostAccessesAreRefused := by
  intro s rest a n bs
  have busyStore {sp : Space} (buffer : sp ≠ .csr) (h : s.agenda = .store sp a bs :: rest)
      (busy : s.status.busy = true) : step s = .refused .hostWriteWhileBusy :=
    (step_store h).trans (hostStore_busy (s := s.setAgenda rest) busy buffer)
  refine ⟨fun h shape => (step_load h).trans (hostLoad_csr_refused (csrShape_misshapen shape) _),
    fun h shape => (step_store h).trans (hostStore_csr_refused (csrShape_misshapen shape) _),
    fun h outside => (step_load h).trans (if_pos outside), fun h outside => (step_load h).trans (if_pos outside),
    busyStore (by decide), busyStore (by decide),
    fun h idle outside => (step_store h).trans ((if_neg (Bool.eq_false_iff.mp idle)).trans (if_pos outside)),
    fun h idle outside => (step_store h).trans ((if_neg (Bool.eq_false_iff.mp idle)).trans (if_pos outside)),
    fun h aligned outside => (step_load h).trans (hostLoad_csr_refused (csrShape_outside aligned outside) _),
    fun h four aligned outside => (step_store h).trans (hostStore_csr_refused ?_ _), ?_⟩
  · rw [four]
    exact csrShape_outside aligned outside
  · rintro (h | h) csr inBuf outBuf
    · rw [step_loadAt h, hostLoadAt, State.setAgenda_params, locate_none csr inBuf outBuf]
    · rw [step_storeAt h, hostStoreAt, State.setAgenda_params, locate_none csr inBuf outBuf]

/-- Settles O48: the bytes stored are those written, and the bytes read those that stand there. -/
theorem hostAccessesMoveTheBytes : Obligations.HostAccessesMoveTheBytes := by
  intro s rest a n bs
  have readBack (m : Memory) {k : Nat} (inside : k < (m.readBytes a n).length) :
      (m.readBytes a n)[k]? = some (m.read (a + k)) := Memory.getElem?_readBytes m a (by simpa using inside)
  refine ⟨fun h idle fits => ⟨_, (step_store h).trans (hostStore_inBuf (s := s.setAgenda rest) idle fits), ?_⟩,
    fun h idle fits => ⟨_, (step_store h).trans (hostStore_outBuf (s := s.setAgenda rest) idle fits), ?_⟩,
    fun h fits => ⟨_, (step_load h).trans (hostLoad_inBuf (s := s.setAgenda rest) fits), ?_⟩,
    fun h idle fits => ⟨_, (step_load h).trans (hostLoad_outBuf_idle (s := s.setAgenda rest) idle fits), ?_⟩,
    fun h busy fits => ⟨_, (step_load h).trans (hostLoad_outBuf_busy (s := s.setAgenda rest) busy fits), by simp⟩⟩
  · exact ⟨fun k inside => (Memory.read_writeBytes_inside s.inMem a bs inside).symm, rfl,
      fun b outside => Memory.read_writeBytes_outside s.inMem a bs outside⟩
  · exact ⟨fun k inside => (Memory.read_writeBytes_inside s.outMem a bs inside).symm, rfl,
      fun b outside => Memory.read_writeBytes_outside s.outMem a bs outside⟩
  · exact ⟨Memory.length_readBytes _ _ _, fun k inside => readBack s.inMem inside⟩
  · exact ⟨Memory.length_readBytes _ _ _, fun k inside => readBack s.outMem inside⟩

/-! ## Platform addresses (R64) -/

section
variable {p : Params} {a : Nat}

theorem locate_csr (inside : a < 256) : locate p (p.csrBase + a) = some (.csr, a) := by
  rw [locate, if_pos (by omega), Nat.add_sub_cancel_left]

/-- Well-formed parameters: no two spaces overlap. -/
theorem Params.wf_bases (wf : p.wf = true) :
    (p.csrBase + 256 ≤ p.inBase ∨ p.inBase + p.inCap ≤ p.csrBase) ∧
    (p.csrBase + 256 ≤ p.outBase ∨ p.outBase + p.outCap ≤ p.csrBase) ∧
    (p.inBase + p.inCap ≤ p.outBase ∨ p.outBase + p.outCap ≤ p.inBase) := by
  simp only [Params.wf, Bool.and_eq_true, Bool.or_eq_true, decide_eq_true_eq] at wf
  exact ⟨wf.1.1.2, wf.1.2, wf.2⟩

theorem locate_inBuf (wf : p.wf = true) (inside : a < p.inCap) : locate p (p.inBase + a) = some (.inBuf, a) := by
  obtain ⟨csrIn, _, _⟩ := Params.wf_bases wf
  rw [locate, if_neg (by omega), if_pos (by omega), Nat.add_sub_cancel_left]

theorem locate_outBuf (wf : p.wf = true) (inside : a < p.outCap) : locate p (p.outBase + a) = some (.outBuf, a) := by
  obtain ⟨_, csrOut, inOut⟩ := Params.wf_bases wf
  rw [locate, if_neg (by omega), if_neg (by omega), if_pos (by omega), Nat.add_sub_cancel_left]

/-- Accesses at an address are the accesses to the space and index it is located at. -/
theorem step_platform {s : State} {addr : Nat} {sp : Space} (located : locate s.params addr = some (sp, a)) (n : Nat)
    (bs : List Byte) (rest : List Event) :
    step (s.setAgenda (.loadAt addr n :: rest)) = step (s.setAgenda (.load sp a n :: rest)) ∧
    step (s.setAgenda (.storeAt addr bs :: rest)) = step (s.setAgenda (.store sp a bs :: rest)) := by
  constructor
  · rw [step_loadAt (s := s.setAgenda _) rfl, step_load (s := s.setAgenda _) rfl, hostLoadAt]
    simp only [State.setAgenda_params, located]
    rfl
  · rw [step_storeAt (s := s.setAgenda _) rfl, step_store (s := s.setAgenda _) rfl, hostStoreAt]
    simp only [State.setAgenda_params, located]
    rfl

end

/-- Settles O47: each base's addresses are located in its space, since no two overlap. -/
theorem platformAddressesReachTheSpaces : Obligations.PlatformAddressesReachTheSpaces := fun _ rest _ n bs wf =>
  ⟨fun inside => step_platform (locate_csr inside) n bs rest,
    fun inside => step_platform (locate_inBuf wf inside) n bs rest,
    fun inside => step_platform (locate_outBuf wf inside) n bs rest⟩

/-! ## CTRL (R26, R215) and the registers as they read (R25 to R34) -/

/-- Settles O42: the write at offset 0 is CTRL's, without effect while BUSY, else a START or the fields stored. -/
theorem startLatchesTheOperands : Obligations.StartLatchesTheOperands := by
  intro s w rest h
  have write : step s = .next (csrWrite .ctrl w (s.setAgenda rest)) := step_storeCsr_of_csrAt h rfl (by decide) rfl
  have idleWrite (idle : s.status.busy = false) :
      csrWrite .ctrl w (s.setAgenda rest) = writeCtrl w (s.setAgenda rest) :=
    if_neg (by simp [idle])
  refine ⟨fun busy => ?_, fun idle plain => ?_, fun idle start => ?_⟩
  · rw [write, csrWrite_busy (s := s.setAgenda rest) busy]
  · rw [write, idleWrite idle, writeCtrl, if_neg (by rw [ctrlStart, plain]; decide)]
    rfl
  · refine ⟨(s.setAgenda rest).acceptStart w, ?_, rfl, rfl, rfl, rfl, rfl, rfl, rfl, rfl, rfl, rfl, rfl, rfl⟩
    rw [write, idleWrite idle]
    exact congrArg _ (if_pos start)

/-- The CTRL word as its fields in place, START reading 0 (R26). -/
theorem ctrlWord_eq_or (op : BitVec 4) (framing preserve : Bool) :
    ctrlWord false op framing preserve = (op.setWidth 32 <<< 1) ||| ((BitVec.ofBool framing).setWidth 32 <<< 5)
      ||| ((BitVec.ofBool preserve).setWidth 32 <<< 6) := by
  revert op
  cases framing <;> cases preserve <;> decide

/-- STATUS as its fields in place (R27). -/
theorem Status.word_eq_or (st : Status) :
    st.word = (BitVec.ofBool st.busy).setWidth 32 ||| ((BitVec.ofBool st.done).setWidth 32 <<< 1)
      ||| ((BitVec.ofBool st.err).setWidth 32 <<< 2) ||| (st.errCode.setWidth 32 <<< 4) := by
  obtain ⟨busy, done, err, code⟩ := st
  revert code
  cases busy <;> cases done <;> cases err <;> decide

theorem append_zero_eq_setWidth (v : BitVec 4) : (0#28 ++ v : Word) = v.setWidth 32 := by
  revert v
  decide

/-- Settles O44: a load reads the register at the offset; the words with several fields are their fields in place. -/
theorem csrReadsReturnTheRegisters : Obligations.CsrReadsReturnTheRegisters := by
  intro s off rest aligned inside h
  refine ⟨_, step_loadCsr h aligned inside, ?_, ?_, ?_, ?_, ?_, ?_, ?_, ?_, ?_, ?_, ?_, ?_, fun reserved => ?_⟩
  · rintro rfl
    exact ctrlWord_eq_or _ _ _
  · rintro rfl
    exact s.status.word_eq_or
  · rintro rfl
    exact append_zero_eq_setWidth _
  iterate 9
    · rintro rfl
      rfl
  · have none : csrAt off = none := List.getElem?_eq_none (by simp; omega)
    rw [none, Option.elim_none]

/-! ## Reset (R270, R45) -/

/-- Settles O49: the state after reset, with SCHEME back at LZ10's id. -/
theorem resetLeavesTheResetValues : Obligations.ResetLeavesTheResetValues := by
  intro s rest h
  have run : step s = .next (resetEvent (s.setAgenda rest)) := by
    rw [step, h]
    rfl
  exact ⟨_, run, rfl, rfl, rfl, rfl, rfl, rfl, ⟨rfl, rfl, rfl, rfl⟩, rfl, rfl, csrRead_lz10 rfl⟩

/-- Settles O50: each register read in the reset state, those of the registry as LZ10's. -/
theorem resetStateReadsAsTheResetColumn : Obligations.ResetStateReadsAsTheResetColumn := by
  obtain ⟨minLen, maxLen, minDisp, maxDisp, unit, preLen, attr⟩ := csrRead_lz10 (s := State.reset) rfl
  intro c
  cases c with
  | limMinLen => exact minLen
  | limMaxLen => exact maxLen
  | limMinDisp => exact minDisp
  | limMaxDisp => exact maxDisp
  | limUnit => exact unit
  | limPreLen => exact preLen
  | schemeAttr => exact attr
  | ctrl | status | scheme | inLen | findPos | priceLen | priceDisp | outLen | result0 | result1 | errOffset | tag =>
    rfl

end Sys2Proof.Machine
end

section
/-! PROOFS. The match finder's list (R123, R127, R130), FIND and PARSE over LZ10 (R130, R160), and the token assembly's
COPY and RUN (R114). -/

namespace Sys2Proof.Machine

/-! ## The candidate list -/

section
variable {S : Entry} {x : List Byte} {i : Nat}

theorem pairwise_natsFromTo (lo hi : Nat) : (natsFromTo lo hi).Pairwise (· < ·) := List.pairwise_lt_range'

theorem disp_of_mem_candidatesAt {d : Nat} {c : Cand} (h : c ∈ candidatesAt S x i d) : c.disp = d := by
  obtain ⟨l, d'⟩ := c
  exact (mem_candidatesAt.mp h).1.symm

theorem pairwise_candidatesAt (S : Entry) (x : List Byte) (i d : Nat) :
    (candidatesAt S x i d).Pairwise (fun a b => a.disp < b.disp ∨ (a.disp = b.disp ∧ a.len < b.len)) :=
  List.pairwise_map.mpr ((pairwise_natsFromTo _ _).imp fun less => .inr ⟨rfl, less⟩)

/-- No list of candidates is empty but for want of one. -/
theorem candidates_eq_nil (h : ∀ l d, S.lim.minDisplacement ≤ d → d ≤ min S.lim.maxDisplacement (S.pre.length + i) →
    S.lim.minLength ≤ l → ¬ l ≤ matchExtent S x i d) : candidates S x i = [] := by
  apply List.eq_nil_iff_forall_not_mem.mpr
  rintro ⟨l, d⟩ mem
  obtain ⟨⟨low, high⟩, minLen, extent⟩ := mem_candidates.mp mem
  exact h l d low high minLen extent

/-- The extent stays inside the input. -/
theorem matchExtent_le_left (d : Nat) : matchExtent S x i d ≤ x.length - i := by
  have := (le_matchExtent_iff.mp (Nat.le_refl (matchExtent S x i d))).1
  omega

end

/-- Settles O13: the displacements rise, and for one displacement the lengths do. -/
theorem candidatesRiseByDispThenLength : Obligations.CandidatesRiseByDispThenLength := by
  intro S x i
  refine List.pairwise_flatMap.mpr ⟨fun d _ => pairwise_candidatesAt S x i d, (pairwise_natsFromTo _ _).imp ?_⟩
  intro d d' less a atD b atD'
  rw [disp_of_mem_candidatesAt atD, disp_of_mem_candidatesAt atD']
  exact .inl less

/-- Settles O14: each case leaves no length or no displacement in range. -/
theorem candidateSetEmptyCases : Obligations.CandidateSetEmptyCases := by
  intro S x i _
  have few {j : Nat} (short : x.length - j < S.lim.minLength) : candidates S x j = [] :=
    candidates_eq_nil fun l d _ _ minLen extent => by
      have := extent.trans (matchExtent_le_left d)
      omega
  refine ⟨few, fun shallow => candidates_eq_nil fun l d low high _ _ => by omega,
    fun none => candidates_eq_nil fun l d low high minLen extent => ?_, fun wf finder => few ?_⟩
  · have := none d low high
    omega
  · have ⟨minLen, _⟩ := entryWf_minima finder wf
    omega

/-! ## FIND and PARSE over LZ10 -/

theorem exec_find_eq (f p : Bool) (s : State) : exec (.find f p) s =
    settle s ((openFind registry f s).map fun t => finishFind (putCands t.cands t)) := rfl

theorem exec_parse_eq (f p : Bool) (s : State) : exec (.parse f p) s =
    settle s ((openParse registry f s).map fun t => finishParse registry (putTokens t.seq t)) := rfl

section
variable {s t : State} {blocks : List (List Byte)}

/-- Records written from the start of OUT, then the completion: OUT holds them, and nothing else changed. -/
theorem emitAll_complete_out (wrptr : t.enc.wrptr = 0#32) (out : t.outMem = s.outMem) {n : Nat}
    (length : blocks.flatten.length = n) (fits : n < 2 ^ 32) (a b : Nat) :
    OutHolds ((emitAll blocks t).complete n a b) 0 blocks.flatten ∧
      SameOutOutside 0 n s ((emitAll blocks t).complete n a b) := by
  subst length
  have written : (emitAll blocks t).outMem = s.outMem.writeBytes 0 blocks.flatten :=
    (emitAll_outMem_zero wrptr fits).trans (by rw [out])
  constructor
  · intro k inside
    rw [State.complete_outMem, written, Memory.read_writeBytes_inside _ _ _ inside]
  · intro k outside
    rw [State.complete_outMem, written, Memory.read_writeBytes_outside _ _ _ (by omega)]

variable (f : Bool) (hn : s.cmd.n.toNat ≤ s.params.inCap) (lz10 : s.cmd.scheme = 1#4)
include hn lz10

theorem openFind_lz10 : openFind registry f s =
    if s.cmd.n.toNat < s.cmd.pos.toNat then .error (.raise .illegalCommand 0)
    else if s.params.outCap < 4 * (candidates entryLz10 s.input s.cmd.pos.toNat).length then
      .error (.raise .capacityExceeded 0)
    else .ok { s with cands := candidates entryLz10 s.input s.cmd.pos.toNat, enc := { s.enc with wrptr := 0#32 },
                      stage := .putCands } := by
  rw [openFind, commonChecks_lz10 hn lz10]
  rfl

theorem openParse_lz10 : openParse registry f s =
    if s.params.outCap < 8 * (optimalParse entryLz10 s.input).length then .error (.raise .capacityExceeded 0)
    else .ok { s with dp := some (dpArrays entryLz10 s.input), seq := optimalParse entryLz10 s.input,
                      enc := { s.enc with wrptr := 0#32 }, stage := .putTokens } := by
  rw [openParse, commonChecks_lz10 hn lz10]
  rfl

end

/-- Settles O15: the candidates' records are emitted from WRPTR = 0. -/
theorem findWritesTheCandidates : Obligations.FindWritesTheCandidates := by
  rintro f p s C wf hn lz10 inside rfl fits
  have run := openFind_lz10 f hn lz10
  rw [if_neg (by omega), if_neg (by omega)] at run
  have small := Params.outCap_lt wf
  rw [exec_find_eq, run]
  refine ⟨_, rfl, ?_⟩
  beta_reduce
  rw [finishFind_putCands, List.flatMap_def]
  obtain ⟨holds, outside⟩ := emitAll_complete_out
    (s := s) (t := { s with cands := candidates entryLz10 s.input s.cmd.pos.toNat,
                            enc := { s.enc with wrptr := 0#32 }, stage := .putCands })
    rfl rfl (length_candRecords _) (Nat.lt_of_le_of_lt fits small) _ _
  exact ⟨complete_ends _ _ _ _, holds, outside,
    ((working_of_fields s _ _ _ _ _ _ _).trans (emitAll_working _ _)).keeps.trans (complete_keeps _ _ _ _)⟩

/-- Settles O16: the two checks of FIND. -/
theorem findErrorsInOrder : Obligations.FindErrorsInOrder := by
  intro f p s hn lz10
  rw [exec_find_eq, openFind_lz10 f hn lz10]
  refine ⟨fun past => ?_, fun inside large => ?_⟩
  · rw [if_pos past]
    exact ⟨_, rfl, errorEntry_entered s _ _⟩
  · rw [if_neg (by omega), if_pos large]
    exact ⟨_, rfl, errorEntry_entered s _ _⟩

/-- Settles O24: the tokens' records are emitted from WRPTR = 0, if they fit. -/
theorem parseWritesTheTokens : Obligations.ParseWritesTheTokens := by
  rintro f p s T wf hn lz10 rfl
  have run := openParse_lz10 f hn lz10
  refine ⟨fun fits => ?_, fun large => ?_⟩
  · rw [if_neg (by omega)] at run
    have small := Params.outCap_lt wf
    rw [exec_parse_eq, run]
    refine ⟨_, rfl, ?_⟩
    beta_reduce
    rw [finishParse_putTokens, List.flatMap_def]
    obtain ⟨holds, outside⟩ := emitAll_complete_out
      (s := s) (t := { s with dp := some (dpArrays entryLz10 s.input), seq := optimalParse entryLz10 s.input,
                              enc := { s.enc with wrptr := 0#32 }, stage := .putTokens })
      rfl rfl (length_tokenRecords _) (Nat.lt_of_le_of_lt fits small) _ _
    refine ⟨?_, holds, outside,
      ((working_of_fields s _ _ _ _ _ _ _).trans (emitAll_working _ _)).keeps.trans (complete_keeps _ _ _ _)⟩
    have scheme : registry s.cmd.scheme = entryLz10 := by rw [lz10]; rfl
    rw [← scheme]
    exact complete_ends _ _ _ _
  · rw [exec_parse_eq, run, if_pos large]
    exact ⟨_, rfl, errorEntry_entered s _ _⟩

/-! ## COPY and RUN (R114) -/

/-- Match tokens of one displacement, of lengths that a token holds, which span `l` together. -/
inductive Pieces (d : Nat) : Nat → List Token → Prop
  | last {l : Nat} (minLen : 3 ≤ l) (maxLen : l ≤ 18) : Pieces d l [.mat l d]
  | more {a b : Nat} {T : List Token} (minLen : 3 ≤ a) (maxLen : a ≤ 18) (rest : Pieces d b T) :
      Pieces d (a + b) (.mat a d :: T)

theorem copyPieces_pieces (d : Nat) {k l : Nat} (minLen : 3 ≤ l) (enough : l ≤ k + 18) :
    Pieces d l (copyPieces d k l) := by
  induction k generalizing l with
  | zero => exact .last minLen (by omega)
  | succ k ih =>
    rw [copyPieces]
    split
    · split
      · have pieces := Pieces.more (d := d) (a := 18) (by omega) (by omega) (ih (l := l - 18) (by omega) (by omega))
        rwa [Nat.add_sub_cancel' (by omega)] at pieces
      · have pieces := Pieces.more (d := d) (a := l - 3) (by omega) (by omega) (ih (l := 3) (by omega) (by omega))
        rwa [Nat.sub_add_cancel minLen] at pieces
    · exact .last minLen (by omega)

theorem expandCopy_pieces (d : Nat) {l : Nat} (minLen : 3 ≤ l) : Pieces d l (expandCopy l d) :=
  copyPieces_pieces d minLen (by omega)

/-- One copy is a copy of its first bytes, then of the others. -/
theorem replayMatch_add (d a b : Nat) (acc : List Byte) :
    replayMatch d (a + b) acc = replayMatch d b (replayMatch d a acc) := by
  induction a generalizing acc with
  | zero => rw [Nat.zero_add]; rfl
  | succ a ih => rw [Nat.add_right_comm, replayMatch, ih, replayMatch]

namespace Pieces

variable {d l : Nat} {T : List Token}

theorem mem (h : Pieces d l T) {t : Token} (mem : t ∈ T) : ∃ n, t = .mat n d ∧ 3 ≤ n ∧ n ≤ 18 := by
  induction h with
  | last minLen maxLen => exact ⟨_, List.mem_singleton.mp mem, minLen, maxLen⟩
  | more minLen maxLen _ ih =>
    obtain rfl | inRest := List.mem_cons.mp mem
    · exact ⟨_, rfl, minLen, maxLen⟩
    · exact ih inRest

theorem spans_eq (h : Pieces d l T) : spans T = l := by
  induction h with
  | last => rfl
  | more _ _ _ ih => rw [spans, ih, span]

theorem replay_eq (h : Pieces d l T) (acc : List Byte) : replay acc T = replayMatch d l acc := by
  induction h generalizing acc with
  | last => rfl
  | more _ _ _ ih => rw [replay, ih, replayMatch_add]

theorem legal (h : Pieces d l T) (minDisp : 1 ≤ d) (maxDisp : d ≤ 4096) {pos : Nat} (history : d ≤ pos) :
    legalTokens pos T = true := by
  induction h generalizing pos with
  | last minLen maxLen => simp [legalTokens, matchOperandsOk_iff, *]
  | @more a _ _ minLen maxLen _ ih =>
    have later := ih (history.trans (Nat.le_add_right pos a))
    simp [legalTokens, matchOperandsOk_iff, *]

end Pieces

theorem replayMatch_one (b : Byte) (l : Nat) (acc : List Byte) :
    replayMatch 1 l (acc ++ [b]) = acc ++ List.replicate (l + 1) b := by
  induction l generalizing acc with
  | zero => rfl
  | succ l ih =>
    have last : ((acc ++ [b])[(acc ++ [b]).length - 1]?).getD 0#8 = b := by simp
    rw [replayMatch, last, ih, List.replicate_succ (n := l + 1), List.append_assoc, List.singleton_append]

theorem replicate_literals (b : Byte) (k : Nat) (acc : List Byte) (pos : Nat) :
    legalTokens pos (List.replicate k (.lit b)) = true ∧ spans (List.replicate k (.lit b)) = k ∧
      replay acc (List.replicate k (.lit b)) = acc ++ List.replicate k b := by
  induction k generalizing acc pos with
  | zero => simp [legalTokens, spans, replay]
  | succ k ih =>
    obtain ⟨legal, spans', replayed⟩ := ih (acc ++ [b]) (pos + 1)
    refine ⟨legal, ?_, ?_⟩
    · rw [List.replicate_succ, spans, spans', span, Nat.add_comm]
    · rw [List.replicate_succ, replay, replayed, List.replicate_succ, List.append_assoc, List.singleton_append]

/-- Settles O60: COPY's tokens are pieces of one copy; RUN's are a literal, then a copy of displacement 1, or literals
again. -/
theorem copyAndRunExpandToLegalTokens : Obligations.CopyAndRunExpandToLegalTokens := by
  refine ⟨fun l d acc minLen => ?_, fun b n acc minN => ?_⟩
  · have pieces := expandCopy_pieces d minLen
    exact ⟨fun t mem => pieces.mem mem, pieces.spans_eq, pieces.replay_eq acc,
      fun pos minDisp maxDisp history => pieces.legal minDisp maxDisp history⟩
  · obtain ⟨k, rfl⟩ := Nat.exists_eq_add_of_le' minN
    rw [expandRun, Nat.add_sub_cancel]
    by_cases long : 3 ≤ k
    · have pieces := expandCopy_pieces 1 long
      rw [if_pos long]
      refine ⟨fun pos => pieces.legal (by omega) (by omega) (by omega), ?_, ?_⟩
      · rw [spans, pieces.spans_eq, span, Nat.add_comm]
      · rw [replay, pieces.replay_eq, replayMatch_one]
    · rw [if_neg long]
      refine ⟨fun pos => (replicate_literals b k acc (pos + 1)).1, ?_, ?_⟩
      · rw [spans, (replicate_literals b k acc 0).2.1, span, Nat.add_comm]
      · rw [replay, (replicate_literals b k _ 0).2.2, List.replicate_succ, List.append_assoc, List.singleton_append]

end Sys2Proof.Machine
end

section
/-! PROOFS. The parsers: both cover the input (R156), the optimal one at the least cost (R157), and a covering sequence
replays to the input (R131, R188). -/

namespace Sys2Proof.Machine

section
variable {S : Entry} {x : List Byte}

/-! ## Covering sequences as paths of the graph (R150, R151) -/

theorem Covers.add_spans {i : Nat} {T : List Token} (h : Covers S x i T) : i + spans T = x.length := by
  induction T generalizing i with
  | nil => exact h
  | cons t ts ih =>
    cases t with
    | lit b =>
      have rest := ih h.2
      rw [spans, span]
      omega
    | mat l d =>
      have rest := ih h.2
      rw [spans, span]
      omega

/-- A match candidate lies within the input. -/
theorem mem_candidates_iff_isCandidate {i l d : Nat} (inside : i ≤ x.length) :
    (⟨l, d⟩ : Cand) ∈ candidates S x i ↔ IsCandidate S x i l d := candidateSetIsExact S x i l d inside

variable (finder : S.hasFinder = true) (wf : entryWf S = true)
include finder wf

/-- A covering sequence's first token is an edge of the graph, and the others cover what is behind it. -/
theorem covers_cons_iff {i : Nat} {t : Token} {ts : List Token} :
    Covers S x i (t :: ts) ↔ (⟨i, t⟩ : Edge) ∈ edges S x ∧ Covers S x (i + span t) ts := by
  have ⟨minLen, _⟩ := entryWf_minima finder wf
  rw [mem_edges]
  cases t with
  | lit b =>
    have byte : x[i]? = some b ↔ i < x.length ∧ b = (x[i]?).getD 0#8 := by
      rw [List.getElem?_eq_some_iff]
      constructor
      · rintro ⟨inside, rfl⟩
        simp [inside]
      · rintro ⟨inside, rfl⟩
        exact ⟨inside, by simp [inside]⟩
    simp [Covers, byte, span]
  | mat l d =>
    have cand : IsCandidate S x i l d ↔ i < x.length ∧ (⟨l, d⟩ : Cand) ∈ candidates S x i := by
      constructor
      · intro cand
        have inside : i < x.length := by
          obtain ⟨low, high, _⟩ := cand
          omega
        exact ⟨inside, (mem_candidates_iff_isCandidate inside.le).mpr cand⟩
      · exact fun ⟨inside, mem⟩ => (mem_candidates_iff_isCandidate inside.le).mp mem
    simp [Covers, cand, span]

/-! ## The optimal parse (R152 to R154, R157) -/

omit finder wf in
/-- best[j] as the arrays' totals use it. -/
theorem best_zero : ((dpArrays S x).best[0]?).getD 0 = 0 := by
  rw [dpArrays_best_zero]
  rfl

/-- Backtracking from `j` puts a path to `j` before the tokens, at the cost best[j]. -/
theorem backtrack_covers {k j : Nat} {T : List Token} (fuel : j ≤ k) (covers : Covers S x j T) :
    Covers S x 0 (backtrack (dpArrays S x).pred k j T) ∧
      cost S (backtrack (dpArrays S x).pred k j T) = ((dpArrays S x).best[j]?).getD 0 + cost S T := by
  induction k generalizing j T with
  | zero =>
    obtain rfl : j = 0 := by omega
    rw [best_zero, Nat.zero_add]
    exact ⟨covers, rfl⟩
  | succ k ih =>
    cases j with
    | zero =>
      rw [best_zero, Nat.zero_add]
      exact ⟨covers, rfl⟩
    | succ j =>
      have inside : j < x.length := by have := covers.add_spans; omega
      obtain ⟨p, pred, ⟨edge, target, least⟩, best⟩ := dpArrays_succ finder wf inside
      have before := src_lt_target finder wf edge
      have path : Covers S x p.src (p.tok :: T) := by
        rw [covers_cons_iff finder wf]
        exact ⟨edge, (show p.src + span p.tok = j + 1 from target) ▸ covers⟩
      obtain ⟨covered, costs⟩ := ih (j := p.src) (by omega) path
      rw [backtrack, pred]
      refine ⟨covered, costs.trans ?_⟩
      rw [best, Option.getD_some, Edge.total, cost, Nat.add_assoc]

theorem optimalParse_covers : Covers S x 0 (optimalParse S x) :=
  (backtrack_covers finder wf (Nat.le_refl x.length) (T := []) rfl).1

theorem cost_optimalParse : cost S (optimalParse S x) = ((dpArrays S x).best[x.length]?).getD 0 :=
  (backtrack_covers finder wf (Nat.le_refl x.length) (T := []) rfl).2

theorem best_last : (dpArrays S x).best[x.length]? = some (cost S (optimalParse S x)) := by
  have known : ∃ v, (dpArrays S x).best[x.length]? = some v := by
    cases length : x.length with
    | zero => exact ⟨0, dpArrays_best_zero S x⟩
    | succ k =>
      obtain ⟨p, _, _, best⟩ := dpArrays_succ finder wf (S := S) (x' := x) (k := k) (by omega)
      exact ⟨_, best⟩
  obtain ⟨v, known⟩ := known
  rw [cost_optimalParse finder wf, known, Option.getD_some]

/-- best[j] is at most the total of every edge into `j`. -/
theorem best_target_le {e : Edge} (edge : e ∈ edges S x) (inside : e.target ≤ x.length) :
    ((dpArrays S x).best[e.target]?).getD 0 ≤ e.total S (dpArrays S x).best := by
  have before := src_lt_target finder wf edge
  obtain ⟨k, target⟩ := Nat.exists_eq_add_of_le' (show 1 ≤ e.target by omega)
  obtain ⟨p, _, ⟨_, _, least⟩, best⟩ := dpArrays_succ finder wf (S := S) (x' := x) (k := k) (by omega)
  rw [target, best, Option.getD_some]
  have rank := least e edge target
  by_contra less
  exact absurd (Edge.rank_lt_iff.mpr (.inl (Nat.lt_of_not_le less))) (not_lt.mpr rank)

/-- No path from `i` to the end costs less than best[n] - best[i]. -/
theorem best_le_add_cost {i : Nat} {T : List Token} (covers : Covers S x i T) :
    ((dpArrays S x).best[x.length]?).getD 0 ≤ ((dpArrays S x).best[i]?).getD 0 + cost S T := by
  induction T generalizing i with
  | nil =>
    obtain rfl : i = x.length := covers
    exact Nat.le_add_right _ _
  | cons t ts ih =>
    obtain ⟨edge, rest⟩ := (covers_cons_iff finder wf).mp covers
    have inside : i + span t ≤ x.length := by have := rest.add_spans; omega
    calc ((dpArrays S x).best[x.length]?).getD 0
        ≤ ((dpArrays S x).best[i + span t]?).getD 0 + cost S ts := ih rest
      _ ≤ (((dpArrays S x).best[i]?).getD 0 + tokenCost S t) + cost S ts :=
        Nat.add_le_add_right (best_target_le finder wf edge inside) _
      _ = ((dpArrays S x).best[i]?).getD 0 + cost S (t :: ts) := by rw [cost, Nat.add_assoc]

theorem optimalParse_least {T : List Token} (covers : Covers S x 0 T) : cost S (optimalParse S x) ≤ cost S T := by
  have least := best_le_add_cost finder wf covers
  rwa [best_zero, Nat.zero_add, ← cost_optimalParse finder wf] at least

/-! ## The greedy parse (R155) -/

omit finder wf in
theorem foldl_greedyPick_mem (c : Cand) (cs : List Cand) : cs.foldl greedyPick c ∈ c :: cs := by
  induction cs generalizing c with
  | nil => exact List.mem_singleton_self c
  | cons b cs ih =>
    obtain picked | inRest := List.mem_cons.mp (ih (greedyPick c b))
    · rw [List.foldl_cons, picked, greedyPick]
      split
      · exact List.mem_cons_of_mem _ List.mem_cons_self
      · exact List.mem_cons_self
    · exact List.mem_cons_of_mem _ (List.mem_cons_of_mem _ inRest)

theorem greedyFrom_covers {k i : Nat} (inside : i ≤ x.length) (fuel : x.length ≤ i + k) :
    Covers S x i (greedyFrom S x k i) := by
  induction k generalizing i with
  | zero => exact Nat.le_antisymm inside fuel
  | succ k ih =>
    rw [greedyFrom]
    split
    · next past => exact Nat.le_antisymm inside past
    · next left =>
      have picks {t : Token} (edge : (⟨i, t⟩ : Edge) ∈ edges S x) (fits : i + span t ≤ x.length) :
          Covers S x i (t :: greedyFrom S x k (i + span t)) := by
        have before : i < i + span t := src_lt_target finder wf edge
        exact (covers_cons_iff finder wf).mpr ⟨edge, ih fits (by omega)⟩
      cases found : candidates S x i with
      | nil => exact picks (mem_edges.mpr ⟨Nat.lt_of_not_le left, .inl rfl⟩) (show i + 1 ≤ x.length by omega)
      | cons c cs =>
        have cand : cs.foldl greedyPick c ∈ candidates S x i := found ▸ foldl_greedyPick_mem c cs
        obtain ⟨_, fits, _⟩ := (mem_candidates_iff_isCandidate inside).mp cand
        refine picks (mem_edges.mpr ⟨Nat.lt_of_not_le left, .inr ⟨_, _, rfl, cand⟩⟩) ?_
        rw [span]
        omega

theorem greedyParse_covers : Covers S x 0 (greedyParse S x) :=
  greedyFrom_covers finder wf (Nat.zero_le _) (Nat.le_add_left _ _)

end

/-- Settles O21: both parses are paths from 0 to the end. -/
theorem parsersCoverTheInput : Obligations.ParsersCoverTheInput := by
  intro S x finder wf
  have optimal := optimalParse_covers (x := x) finder wf
  have greedy := greedyParse_covers (x := x) finder wf
  exact ⟨optimal, greedy, (Nat.zero_add _).symm.trans optimal.add_spans, (Nat.zero_add _).symm.trans greedy.add_spans⟩

/-- Settles O23: best[n] is the cost of the path found by backtracking, and a lower bound of every path's. -/
theorem optimalParseIsLeast : Obligations.OptimalParseIsLeast := fun _ _ finder wf =>
  ⟨best_last finder wf, fun _ covers => optimalParse_least finder wf covers, greedyParse_covers finder wf,
    optimalParse_least finder wf (greedyParse_covers finder wf)⟩

/-! ## Replay (R131, R188) -/

/-- Where the bytes from `i - d` on agree with those from `i` on, the copy gives the next bytes of the input. -/
theorem replayMatch_take {x : List Byte} {i l d : Nat} (pos : 1 ≤ d) (history : d ≤ i) (inside : i + l ≤ x.length)
    (agree : ∀ k, k < l → x[i - d + k]? = x[i + k]?) : replayMatch d l (x.take i) = x.take (i + l) := by
  induction l generalizing i with
  | zero => rfl
  | succ l ih =>
    have copied : (x.take i)[(x.take i).length - d]? = x[i]? := by
      rw [List.length_take_of_le (by omega), List.getElem?_take_of_lt (by omega)]
      exact agree 0 (Nat.succ_pos l)
    have grown : x.take i ++ [((x.take i)[(x.take i).length - d]?).getD 0#8] = x.take (i + 1) := by
      rw [copied, List.take_add_one, List.getElem?_eq_getElem (by omega)]
      rfl
    rw [replayMatch, grown, ih (i := i + 1) (by omega) (by omega), Nat.add_right_comm, Nat.add_assoc]
    intro k less
    have next := agree (k + 1) (by omega)
    rwa [show i - d + (k + 1) = i + 1 - d + k by omega, show i + (k + 1) = i + 1 + k by omega] at next

theorem Covers.replay_take {S : Entry} {x : List Byte} (noPre : S.pre = []) (finder : S.hasFinder = true)
    (wf : entryWf S = true) {i : Nat} {T : List Token} (covers : Covers S x i T) : replay (x.take i) T = x := by
  induction T generalizing i with
  | nil =>
    obtain rfl : i = x.length := covers
    exact List.take_length
  | cons t ts ih =>
    cases t with
    | lit b =>
      obtain ⟨byte, rest⟩ := covers
      have grown : x.take i ++ [b] = x.take (i + 1) := by
        rw [List.take_add_one, byte]
        rfl
      rw [replay, grown, ih rest]
    | mat l d =>
      obtain ⟨⟨minLen, maxLen, minDisp, maxDisp, agree⟩, rest⟩ := covers
      have ⟨posLen, posDisp⟩ := entryWf_minima finder wf
      simp only [noPre, List.nil_append, List.length_nil, Nat.zero_add] at maxDisp agree
      rw [replay, replayMatch_take (by omega) (by omega) (by omega) agree, ih rest]

/-- Settles O34: each token replays to the next bytes of the input. -/
theorem replayOfAParseIsTheInput : Obligations.ReplayOfAParseIsTheInput := fun _ _ _ noPre finder wf covers =>
  covers.replay_take noPre finder wf

/-- A covering sequence of LZ10 meets the encoder's contract (R175). -/
theorem Covers.legalTokens_lz10 {x : List Byte} {i : Nat} {T : List Token} (covers : Covers entryLz10 x i T) :
    legalTokens i T = true := by
  induction T generalizing i with
  | nil => rfl
  | cons t ts ih =>
    cases t with
    | lit b => exact ih covers.2
    | mat l d =>
      obtain ⟨⟨minLen, maxLen, minDisp, maxDisp, _⟩, rest⟩ := covers
      have lengths : l ≤ 18 := maxLen.trans (Nat.min_le_left _ _)
      have disps : d ≤ 4096 := maxDisp.trans (Nat.min_le_left _ _)
      have history : d ≤ i := maxDisp.trans ((Nat.min_le_right _ _).trans (Nat.zero_add i).le)
      simp only [legalTokens, Bool.and_eq_true, decide_eq_true_eq]
      exact ⟨⟨matchOperandsOk_iff.mpr ⟨minLen, lengths, minDisp, disps⟩, history⟩, ih rest⟩

end Sys2Proof.Machine
end

section
/-! PROOFS. ENCODE and COMPRESS (R170 to R176, R200 to R208, R223 to R225): what they write, and their errors in
order. -/

namespace Sys2Proof.Machine

/-! ## Method tags (R200) and sizes (R208) -/

section
variable {p : Params} {f : Bool} {id : BitVec 4} {m : BitVec 3}

theorem methodTag_of_usesMethod (uses : UsesMethod p f id m) : methodTag f p id = .ok m := by
  cases f with
  | false =>
    obtain rfl : m = 0#3 := uses
    rfl
  | true =>
    obtain ⟨mapped, least⟩ : methodScheme p m = some id ∧ ∀ k, methodScheme p k = some id → m.toNat ≤ k.toNat := uses
    rw [methodTag, if_pos rfl]
    cases found : leastMethod p id with
    | none => exact absurd mapped (leastMethodFrom_none found m.toNat (Nat.zero_le _) (by omega))
    | some r =>
      obtain ⟨_, small, maps, before⟩ := leastMethodFrom_some found
      have field : (BitVec.ofNat 3 r).toNat = r := Nat.mod_eq_of_lt small
      have le := least (BitVec.ofNat 3 r) (by rw [methodScheme, field]; exact maps)
      have ge : ¬ m.toNat < r := fun less => before m.toNat (Nat.zero_le _) less mapped
      have same : BitVec.ofNat 3 r = m := BitVec.eq_of_toNat_eq (by omega)
      simp only [same]

theorem methodTag_unmapped (framing1 : f = true) (unmapped : ∀ m, methodScheme p m ≠ some id) :
    methodTag f p id = .error (.raise .unsupportedScheme 0) := by
  rw [methodTag, if_pos framing1]
  cases found : leastMethod p id with
  | none => rfl
  | some r =>
    obtain ⟨_, small, maps, _⟩ := leastMethodFrom_some found
    have field : (BitVec.ofNat 3 r).toNat = r := Nat.mod_eq_of_lt small
    exact absurd (show methodScheme p (BitVec.ofNat 3 r) = some id by rw [methodScheme, field]; exact maps) (unmapped _)

/-- The input of COMPRESS exceeds the size field with FRAMING = 1 only (R208). -/
theorem toNat_le_maxSize {n : Word} (h : f = true → n.toNat ≤ 2 ^ 29 - 1) : n.toNat ≤ maxSize f := by
  cases f with
  | true => exact h rfl
  | false => exact Nat.le_sub_one_of_lt n.isLt

end

/-! ## The stream left in OUT -/

/-- A stream written from the start of OUT, then the completion: OUT holds it, and nothing else changed. -/
theorem putStream_complete_out {s u : State} (start : Working s u) (out : u.outMem = s.outMem) {f p : Bool} {n : Nat}
    {m : BitVec 3} {T : List Token} (fits : streamLength f T < 2 ^ 32) (a b c : Nat) :
    OutHoldsStream ((u.putStream f p n m T).complete a b c) f p n m T ∧
      ReservedKept s ((u.putStream f p n m T).complete a b c) f p ∧
      SameOutOutside 0 (streamLength f T) s ((u.putStream f p n m T).complete a b c) ∧
      Keeps s ((u.putStream f p n m T).complete a b c) := by
  have params : ((u.putStream f p n m T).complete a b c).params = u.params :=
    (putStream_working u f p n m T).keeps.params
  refine ⟨fun k inside written => ?_, fun framing0 preserved k low high => ?_, fun k outside => ?_,
    (start.trans (putStream_working u f p n m T)).keeps.trans (complete_keeps _ _ _ _)⟩
  · rw [params]
    exact putStream_holds u fits inside written
  · rw [State.complete_outMem, putStream_reserved u fits framing0 preserved low high, out]
  · rw [State.complete_outMem, (putStream_written u fits).read_eq (by omega), out]

/-! ## Records read (R176) -/

theorem inHolds_append {s : State} {lo : Nat} {as bs : List Byte} :
    InHolds s lo (as ++ bs) ↔ InHolds s lo as ∧ InHolds s (lo + as.length) bs := by
  constructor
  · intro holds
    refine ⟨fun k inside => ?_, fun k inside => ?_⟩
    · rw [← holds k (by rw [List.length_append]; omega), List.getElem?_append_left inside]
    · rw [Nat.add_assoc, ← holds (as.length + k) (by rw [List.length_append]; omega),
        List.getElem?_append_right (Nat.le_add_right _ _), Nat.add_sub_cancel_left]
  · rintro ⟨first, rest⟩ k inside
    by_cases inFirst : k < as.length
    · rw [List.getElem?_append_left inFirst, first k inFirst]
    · obtain ⟨j, rfl⟩ := Nat.exists_eq_add_of_le (Nat.le_of_not_lt inFirst)
      rw [List.length_append] at inside
      rw [List.getElem?_append_right (Nat.le_add_right _ _), Nat.add_sub_cancel_left, rest j (by omega), Nat.add_assoc]

theorem spans_append (as bs : List Token) : spans (as ++ bs) = spans as + spans bs := by
  induction as with
  | nil => exact (Nat.zero_add _).symm
  | cons a as ih => rw [List.cons_append, spans, ih, spans, Nat.add_assoc]

theorem legalTokens_cons {pos : Nat} {t : Token} {ts : List Token} : legalTokens pos (t :: ts) = true ↔
    (∀ l d, t = .mat l d → matchOperandsOk l d = true ∧ d ≤ pos) ∧ legalTokens (pos + span t) ts = true := by
  cases t <;> simp [legalTokens, span]

section
variable {s : State} {T : List Token}

theorem readRecord_lit {v : Byte} (holds : InHolds s (8 * s.seq.length) (encode (.tokrecLit v))) :
    readRecord registry s = takeLit v s := by
  obtain ⟨rest, decoded⟩ : ∃ rest, decode .record (s.recordWindow s.seq.length) = .ok (.tokrecLit v, rest) :=
    decode_of_inHolds rfl holds (Nat.le_refl 8)
  rw [readRecord, decoded]

theorem readRecord_match {l d : BitVec 16} (holds : InHolds s (8 * s.seq.length) (encode (.tokrecMatch l d))) :
    readRecord registry s = takeMatch registry l d s := by
  obtain ⟨rest, decoded⟩ : ∃ rest, decode .record (s.recordWindow s.seq.length) = .ok (.tokrecMatch l d, rest) :=
    decode_of_inHolds rfl holds (Nat.le_refl 8)
  rw [readRecord, decoded]

theorem readRecord_malformed {e : DecodeError} (rejected : decode .record (s.recordWindow s.seq.length) = .error e) :
    readRecord registry s = .error (.raise .malformedToken (8 * s.seq.length)) := by
  rw [readRecord, rejected]

theorem readRecord_legal (lz10 : s.cmd.scheme = 1#4) {t : Token}
    (holds : InHolds s (8 * s.seq.length) (encode (tokenRecord t)))
    (legal : ∀ l d, t = .mat l d → matchOperandsOk l d = true ∧ d ≤ spans s.seq) :
    readRecord registry s = .ok (s.setSeq (s.seq ++ [t])) := by
  cases t with
  | lit v => exact readRecord_lit holds
  | mat l d =>
    obtain ⟨ok, history⟩ := legal l d rfl
    obtain ⟨_, maxLen, _, maxDisp⟩ := matchOperandsOk_iff.mp ok
    have length : (u16 l).toNat = l := Nat.mod_eq_of_lt (by omega)
    have displacement : (u16 d).toNat = d := Nat.mod_eq_of_lt (by omega)
    rw [readRecord_match holds, takeMatch_lz10 lz10, length, displacement, if_pos ⟨ok, history⟩]

/-- Legal records are read one after the other, whatever stands behind them. -/
theorem readRecords_legal (lz10 : s.cmd.scheme = 1#4) {j : Nat}
    (holds : InHolds s (8 * s.seq.length) (T.flatMap fun t => encode (tokenRecord t)))
    (legal : legalTokens (spans s.seq) T = true) :
    readRecords registry (T.length + j) s = readRecords registry j (s.setSeq (s.seq ++ T)) := by
  induction T generalizing s with
  | nil => rw [List.length_nil, Nat.zero_add, List.append_nil]; rfl
  | cons t ts ih =>
    rw [List.flatMap_cons, inHolds_append] at holds
    obtain ⟨here, later⟩ := holds
    obtain ⟨ok, rest⟩ := legalTokens_cons.mp legal
    have eight : (encode (tokenRecord t)).length = 8 := by cases t <;> rfl
    rw [List.length_cons, Nat.add_right_comm, readRecords, readRecord_legal lz10 here ok]
    have behind : 8 * (s.setSeq (s.seq ++ [t])).seq.length = 8 * s.seq.length + (encode (tokenRecord t)).length := by
      simp [eight, Nat.mul_add]
    have taken : spans (s.setSeq (s.seq ++ [t])).seq = spans s.seq + span t := by simp [spans_append, spans]
    have next := ih (s := s.setSeq (s.seq ++ [t])) lz10 (behind ▸ later) (taken ▸ rest)
    rw [State.setSeq_seq, List.append_assoc, List.singleton_append] at next
    exact next

end

/-! ## ENCODE (R176) -/

section
variable {s : State} {f p : Bool} {m : BitVec 3} {T : List Token}

/-- ENCODE once its records are opened: none is taken yet. -/
def State.readingRecords (s : State) (T : List Token) : State := { s with seq := T, stage := .readRecords }

theorem exec_encode_eq (f p : Bool) (s : State) : exec (.encode f p) s = settle s (encodeResult registry f p s) := rfl

theorem encodeResult_opened {t : State} (opened : openEncode registry f s = .ok t) :
    encodeResult registry f p s = (readRecords registry (s.cmd.n.toNat / 8) t).bind (finishEncode f p) := by
  rw [encodeResult, opened]
  dsimp only
  cases readRecords registry (s.cmd.n.toNat / 8) t <;> rfl

variable (hn : s.cmd.n.toNat ≤ s.params.inCap) (lz10 : s.cmd.scheme = 1#4)
include hn lz10

theorem openEncode_unmapped (framing1 : f = true) (unmapped : ∀ m, methodScheme s.params m ≠ some 1#4) :
    openEncode registry f s = .error (.raise .unsupportedScheme 0) := by
  rw [openEncode, commonChecks_lz10 hn lz10, lz10, methodTag_unmapped framing1 unmapped]

variable (uses : UsesMethod s.params f 1#4 m)
include uses

theorem openEncode_lz10 : openEncode registry f s =
    if s.cmd.n.toNat % 8 ≠ 0 then .error (.raise .malformedToken (s.cmd.n.toNat - s.cmd.n.toNat % 8))
    else .ok (s.readingRecords []) := by
  rw [openEncode, commonChecks_lz10 hn lz10, lz10, methodTag_of_usesMethod uses]
  rfl

/-- Behind the records of a legal token sequence ENCODE goes on with the records that are left. -/
theorem encodeResult_behind {j : Nat} (length : s.cmd.n.toNat = 8 * (T.length + j))
    (holds : InHolds s 0 (T.flatMap fun t => encode (tokenRecord t))) (legal : legalTokens 0 T = true) :
    encodeResult registry f p s = (readRecords registry j (s.readingRecords T)).bind (finishEncode f p) := by
  have opened := openEncode_lz10 hn lz10 uses
  rw [if_neg (by omega)] at opened
  rw [encodeResult_opened opened, length, Nat.mul_div_cancel_left _ (by omega),
    readRecords_legal (s := s.readingRecords []) lz10 holds legal]
  rfl

/-- Once the records are read, the size, the room in OUT, then the stream. -/
theorem encodeResult_lz10 (length : s.cmd.n.toNat = 8 * T.length)
    (holds : InHolds s 0 (T.flatMap fun t => encode (tokenRecord t))) (legal : legalTokens 0 T = true) :
    encodeResult registry f p s =
      if maxSize f < spans T then .error (.raise .sizeOverflow 0)
      else if s.params.outCap < streamLength f T then .error (.raise .capacityExceeded 0)
      else .ok (((s.readingRecords T).putStream f p (spans T) m T).complete
        (streamLength f T) (spans T) T.length) := by
  rw [encodeResult_behind hn lz10 uses (j := 0) length holds legal]
  show finishEncode f p (s.readingRecords T) = _
  have tag : methodTag f (s.readingRecords T).params (s.readingRecords T).cmd.scheme = .ok m := by
    show methodTag f s.params s.cmd.scheme = .ok m
    rw [lz10, methodTag_of_usesMethod uses]
  rw [finishEncode, tag]
  rfl

end

/-- Settles O26: the records are read back to the tokens, and their stream is written. -/
theorem encodeWritesTheStream : Obligations.EncodeWritesTheStream := by
  intro f p s T m wf hn lz10 length holds legal uses small fits
  have room := Nat.lt_of_le_of_lt fits (Params.outCap_lt wf)
  have inField : ¬ maxSize f < spans T := Nat.not_lt.mpr small
  rw [exec_encode_eq, encodeResult_lz10 hn lz10 uses length holds legal, if_neg inField, if_neg (Nat.not_lt.mpr fits)]
  refine ⟨_, rfl, complete_ends _ _ _ _, putStream_complete_out ?_ ?_ room _ _ _⟩
  · exact working_of_fields s _ _ _ _ _ _ _
  · rfl

/-- Settles O27: the check of the length, and the first record that is not taken. -/
theorem encodeRejectsBadRecords : Obligations.EncodeRejectsBadRecords := by
  intro f p s m hn lz10 uses
  refine ⟨fun broken => ?_, fun T whole left holds legal => ?_⟩
  · have rejected := openEncode_lz10 hn lz10 uses
    rw [if_pos broken] at rejected
    rw [exec_encode_eq, encodeResult, rejected]
    exact ⟨_, rfl, errorEntry_entered s _ _⟩
  · obtain ⟨j, length⟩ : ∃ j, s.cmd.n.toNat = 8 * (T.length + (j + 1)) := ⟨s.cmd.n.toNat / 8 - T.length - 1, by omega⟩
    have behind := encodeResult_behind (p := p) hn lz10 uses length holds legal
    have raises {e : ErrCode} {off : Nat}
        (read : readRecord registry (s.readingRecords T) = .error (.raise e off)) :
        ∃ t, exec (.encode f p) s = .next t ∧ ErrorEntered s t e off := by
      rw [exec_encode_eq, behind, readRecords, read]
      exact ⟨_, rfl, errorEntry_entered s _ _⟩
    refine ⟨fun ⟨e, rejected⟩ => raises (readRecord_malformed rejected), fun l d record outside => raises ?_⟩
    rw [readRecord_match record, takeMatch_lz10 (s := s.readingRecords T) lz10, if_neg]
    · rfl
    · show ¬ (_ ∧ d.toNat ≤ spans T)
      rw [matchOperandsOk_iff]
      omega

/-- Settles O28: the tag, then the size, then the room in OUT. -/
theorem encodeSizeErrorsInOrder : Obligations.EncodeSizeErrorsInOrder := by
  intro f p s hn lz10
  refine ⟨fun framing1 unmapped => ?_, fun T m uses length holds legal => ⟨fun large => ?_, fun small full => ?_⟩⟩
  · rw [exec_encode_eq, encodeResult, openEncode_unmapped hn lz10 framing1 unmapped]
    exact ⟨_, rfl, errorEntry_entered s _ _⟩
  · have past : maxSize f < spans T := large
    rw [exec_encode_eq, encodeResult_lz10 hn lz10 uses length holds legal, if_pos past]
    exact ⟨_, rfl, errorEntry_entered s _ _⟩
  · have inField : ¬ maxSize f < spans T := Nat.not_lt.mpr small
    rw [exec_encode_eq, encodeResult_lz10 hn lz10 uses length holds legal, if_neg inField, if_pos full]
    exact ⟨_, rfl, errorEntry_entered s _ _⟩

/-! ## COMPRESS (R224) -/

section
variable {s : State} {f p : Bool} {m : BitVec 3} {S : Entry}

theorem exec_compress_eq (f p : Bool) (s : State) :
    exec (.compress f p) s = settle s (compressResult registry f p s) := rfl

/-- NONE gets past the common checks of COMPRESS with FRAMING = 1 (R245). -/
theorem commonChecks_compressNone (hn : s.cmd.n.toNat ≤ s.params.inCap) (none : s.cmd.scheme = 0#4) :
    commonChecks registry .compress true s = .ok entryNone := by
  unfold commonChecks
  rw [if_neg (by omega), none]
  rfl

theorem compressResult_unmapped (checked : commonChecks registry .compress f s = .ok S)
    (framing1 : f = true) (unmapped : ∀ m, methodScheme s.params m ≠ some s.cmd.scheme) :
    compressResult registry f p s = .error (.raise .unsupportedScheme 0) := by
  rw [compressResult, checked]
  simp only [methodTag_unmapped framing1 unmapped]

theorem compressResult_eq (checked : commonChecks registry .compress f s = .ok S)
    (uses : UsesMethod s.params f s.cmd.scheme m) : compressResult registry f p s =
      if maxSize f < s.cmd.n.toNat then .error (.raise .sizeOverflow 0)
      else if isNone S = true then compressRaw m s
      else compressTokens S f p m s := by
  rw [compressResult, checked]
  simp only [methodTag_of_usesMethod uses]

theorem compressTokens_lz10 : compressTokens entryLz10 f p m s =
    if s.params.outCap < streamLength f (optimalParse entryLz10 s.input) then .error (.raise .capacityExceeded 0)
    else .ok ((s.putStream f p s.cmd.n.toNat m (optimalParse entryLz10 s.input)).complete
      (streamLength f (optimalParse entryLz10 s.input)) (optimalParse entryLz10 s.input).length
      (cost entryLz10 (optimalParse entryLz10 s.input))) := rfl

theorem compressRaw_outMem (s : State) (m : BitVec 3) :
    ((s.putStreamHeader true false s.cmd.n.toNat m).emit s.input).outMem =
      s.outMem.writeBytes 0 (encode (.mword (BitVec.ofNat 29 s.cmd.n.toNat) m) ++ s.input) := by
  have header := putStreamHeader_outMem s true false s.cmd.n.toNat m
  rw [if_neg (by decide)] at header
  have wrptr := putStreamHeader_wrptr s true false s.cmd.n.toNat m
  rw [State.emit_outMem, header, wrptr, Memory.writeBytes_append]
  rfl

end

/-- Settles O29: the stream of the optimal parse, or the method word and the input. -/
theorem compressWritesTheStream : Obligations.CompressWritesTheStream := by
  intro f p s m wf hn uses small
  have inField := Nat.not_lt.mpr (toNat_le_maxSize small)
  refine ⟨fun T lz10 same fits => ?_, fun none framing1 fits => ?_⟩
  · subst same
    have room := Nat.lt_of_le_of_lt fits (Params.outCap_lt wf)
    rw [exec_compress_eq, compressResult_eq (commonChecks_lz10 hn lz10) uses, if_neg inField, if_neg (by decide),
      compressTokens_lz10, if_neg (Nat.not_lt.mpr fits)]
    exact ⟨_, rfl, complete_ends _ _ _ _, putStream_complete_out (Working.refl s) rfl room _ _ _⟩
  · subst framing1
    rw [exec_compress_eq, compressResult_eq (commonChecks_compressNone hn none) uses, if_neg inField,
      if_pos (by decide), compressRaw, if_neg (Nat.not_lt.mpr fits)]
    refine ⟨_, rfl, complete_ends _ _ _ _, fun k inside => ?_, fun k outside => ?_,
      ((putStreamHeader_working s true false _ m).trans (emit_working _ _)).keeps.trans (complete_keeps _ _ _ _)⟩
    · rw [State.complete_outMem, compressRaw_outMem, Memory.read_writeBytes_inside _ _ _ inside]
    · have length : (encode (.mword (BitVec.ofNat 29 s.cmd.n.toNat) m) ++ s.input).length = 4 + s.cmd.n.toNat := by
        rw [List.length_append, State.input, Memory.length_readBytes]
        rfl
      rw [State.complete_outMem, compressRaw_outMem, Memory.read_writeBytes_outside _ _ _ (by omega)]

/-- Settles O30: the tag, then the size, then the room in OUT, for either scheme. -/
theorem compressErrorsInOrder : Obligations.CompressErrorsInOrder := by
  intro f p s hn scheme
  obtain ⟨S, checked⟩ : ∃ S, commonChecks registry .compress f s = .ok S := by
    obtain lz10 | ⟨none, rfl⟩ := scheme
    · exact ⟨_, commonChecks_lz10 hn lz10⟩
    · exact ⟨_, commonChecks_compressNone hn none⟩
  refine ⟨fun framing1 unmapped => ?_, fun m uses => ⟨fun framing1 large => ?_, fun small full => ?_⟩⟩
  · rw [exec_compress_eq, compressResult_unmapped checked framing1 unmapped]
    exact ⟨_, rfl, errorEntry_entered s _ _⟩
  · subst framing1
    have past : maxSize true < s.cmd.n.toNat := large
    rw [exec_compress_eq, compressResult_eq checked uses, if_pos past]
    exact ⟨_, rfl, errorEntry_entered s _ _⟩
  · have inField := Nat.not_lt.mpr (toNat_le_maxSize small)
    obtain lz10 | ⟨none, rfl⟩ := scheme
    · rw [lz10, if_neg (by decide)] at full
      rw [exec_compress_eq, compressResult_eq (commonChecks_lz10 hn lz10) uses, if_neg inField, if_neg (by decide),
        compressTokens_lz10, if_pos full]
      exact ⟨_, rfl, errorEntry_entered s _ _⟩
    · rw [none, if_pos rfl] at full
      rw [exec_compress_eq, compressResult_eq (commonChecks_compressNone hn none) uses, if_neg inField,
        if_pos (by decide), compressRaw, if_pos full]
      exact ⟨_, rfl, errorEntry_entered s _ _⟩

/-! ## No SizeOverflow with FRAMING = 0 (R208) -/

/-- The common checks raise one of two errors. -/
theorem commonChecks_raise {reg : Registry} {c : Command} {f : Bool} {s : State} {e : ErrCode} {off : Nat}
    (h : commonChecks reg c f s = .error (.raise e off)) : e = .illegalCommand ∨ e = .unsupportedScheme := by
  unfold commonChecks at h
  split at h
  · cases h
    exact .inl rfl
  · split at h
    · cases h
    · split at h
      · next found =>
        cases h
        unfold checkEntry at found
        repeat' split at found
        all_goals cases found
        exact .inr rfl
      · repeat' split at h
        all_goals cases h
        exact .inl rfl

theorem compressResult_framing0 {reg : Registry} {p : Bool} {s : State} {off : Nat} :
    compressResult reg false p s ≠ .error (.raise .sizeOverflow off) := by
  have inField := Nat.not_lt.mpr (toNat_le_maxSize (f := false) (n := s.cmd.n) nofun)
  intro h
  unfold compressResult at h
  split at h
  · cases h
    obtain illegal | unsupported := commonChecks_raise ‹_›
    · cases illegal
    · cases unsupported
  · simp only [methodTag, if_neg (show ¬ false = true by decide), if_neg inField] at h
    split at h
    · unfold compressRaw at h
      split at h <;> cases h
    · simp only [compressTokens] at h
      split at h <;> cases h

theorem ErrCode.eq_sizeOverflow {e : ErrCode} (code : e.code = 5#4) : e = .sizeOverflow := by
  revert code
  cases e <;> decide

/-- Settles O31: every size fits its field; a completion shows no error, and no error raised is SizeOverflow. -/
theorem compressFraming0NeverOverflows : Obligations.CompressFraming0NeverOverflows := by
  refine ⟨fun w => Nat.le_sub_one_of_lt w.isLt, fun w => Nat.le_sub_one_of_lt w.isLt, fun p s t h => ?_⟩
  obtain ok | ⟨e, off, raised, rfl⟩ := settle_next (exec_compress_eq false p s ▸ h)
  · cases compress_completes ok
    rw [State.complete_status]
    decide
  · intro code
    obtain rfl : e = .sizeOverflow := ErrCode.eq_sizeOverflow code
    exact compressResult_framing0 raised

end Sys2Proof.Machine
end

section
/-! PROOFS. DECOMPRESS of a stream: the stream loop replays the tokens (R181 to R186), and the raw body is copied
(R204). -/

namespace Sys2Proof.Machine

/-! ## The tags of a control byte (R173, R181) -/

theorem getLsbD_setTag (g : Byte) {i n : Nat} (hi : i < 8) (hn : n < 8) (tag : Bool) :
    (setTag g n tag).getLsbD (7 - i) = (g.getLsbD (7 - i) || (decide (i = n) && tag)) := by
  have oneBit : ∀ i < 8, ∀ n < 8, ((1#8 : Byte) <<< (7 - n)).getLsbD (7 - i) = decide (i = n) := by decide
  rw [setTag, BitVec.getLsbD_or]
  cases tag with
  | false => simp
  | true => rw [Bool.toNat_true, oneBit i hi n hn, Bool.and_true]

/-- The fold of `setTags` puts the tag of its token `j` at the tag position `n + j`, and keeps what was set before. -/
theorem getLsbD_foldl_setTag (ts : List Token) (e : EncRegs) {i : Nat} (hi : i < 8) (fits : e.groupN + ts.length ≤ 8) :
    (ts.foldl (fun e t => { e with group := setTag e.group e.groupN (tokenTag t), groupN := e.groupN + 1 })
        e).group.getLsbD (7 - i) =
      (e.group.getLsbD (7 - i) || (decide (e.groupN ≤ i) && (ts[i - e.groupN]?.map tokenTag).getD false)) := by
  induction ts generalizing e with
  | nil => simp
  | cons t ts ih =>
    rw [List.length_cons] at fits
    rw [List.foldl_cons, ih _ (by simp; omega)]
    simp only [getLsbD_setTag e.group hi (show e.groupN < 8 by omega)]
    obtain before | here | behind := Nat.lt_trichotomy i e.groupN
    · simp [show ¬ e.groupN ≤ i by omega, show ¬ e.groupN + 1 ≤ i by omega, show i ≠ e.groupN by omega]
    · simp [here]
    · have index : i - e.groupN = (i - (e.groupN + 1)) + 1 := by omega
      simp [index, show e.groupN ≤ i by omega, show e.groupN + 1 ≤ i by omega, show i ≠ e.groupN by omega]

/-- Bit 7 - j of a group's control byte is the tag of its token `j`. -/
theorem controlByte_tag {ts : List Token} (short : ts.length ≤ 8) {j : Nat} {t : Token} (found : ts[j]? = some t) :
    (controlByte ts).getLsbD (7 - j) = tokenTag t := by
  have inside : j < ts.length := (List.getElem?_eq_some_iff.mp found).1
  have tags := getLsbD_foldl_setTag ts { group := 0#8, groupN := 0, wrptr := 0#32 } (i := j) (by omega) (by simpa)
  rw [controlByte, EncRegs.setTags, tags]
  simp [found]

/-! ## One token of the stream -/

/-- The stream instruction of a token. -/
def tokenInstr : Token → Instr
  | .lit b => .lit b
  | .mat l d => .matchTok l d

theorem encode_tokenInstr (t : Token) : encode (tokenInstr t) = tokenBytes t := by
  cases t <;> rfl

theorem replay_cons (acc : List Byte) (t : Token) (ts : List Token) :
    replay acc (t :: ts) = replay (replay acc [t]) ts := by
  cases t <;> rfl

theorem readBytes_write_next (m : Memory) (q : Nat) (b : Byte) :
    (m.write q b).readBytes 0 (q + 1) = m.readBytes 0 q ++ [b] := by
  have same : (m.write q b).readBytes 0 q = m.readBytes 0 q := by
    apply List.ext_getElem?
    intro k
    by_cases inside : k < q
    · rw [Memory.getElem?_readBytes _ _ inside, Memory.getElem?_readBytes _ _ inside,
        Memory.read_write_ne _ _ (by omega)]
    · rw [List.getElem?_eq_none (by simp; omega), List.getElem?_eq_none (by simp; omega)]
  rw [Memory.readBytes_add, same, Nat.zero_add, Memory.readBytes, Memory.readBytes, Memory.read_write_same]

/-- The copy of a match in OUT is the copy behind the bytes already produced (R72, R185). -/
theorem readBytes_copyMatch {d q : Nat} (pos : 1 ≤ d) (history : d ≤ q) (l : Nat) (m : Memory) :
    (copyMatch [] d l q m).readBytes 0 (q + l) = replayMatch d l (m.readBytes 0 q) := by
  induction l generalizing q m with
  | zero => rfl
  | succ l ih =>
    have source : ((m.readBytes 0 q)[(m.readBytes 0 q).length - d]?).getD 0#8 = m.read (q - d) := by
      rw [Memory.length_readBytes, Memory.getElem?_readBytes _ _ (by omega), Nat.zero_add]
      rfl
    rw [copyMatch_succ history, replayMatch, source, ← readBytes_write_next, ← ih (by omega), Nat.add_right_comm,
      Nat.add_assoc]

section
variable {u : State} {t : Token}

/-- A legal token whose bytes are there and whose output fits is executed, and replays. -/
theorem exec_token (ok : ∀ l d, t = .mat l d → matchOperandsOk l d = true ∧ d ≤ u.dec.outpos.toNat)
    (left : u.dec.rdptr.toNat + (tokenBytes t).length ≤ u.cmd.n.toNat)
    (fits : u.dec.outpos.toNat + span t ≤ u.dec.size.toNat) :
    ∃ m : Memory, exec (tokenInstr t) u =
        .next ((u.setOut m).setDec (u.dec.afterToken (tokenBytes t).length (span t))) ∧
      m.readBytes 0 (u.dec.outpos.toNat + span t) = replay (u.outMem.readBytes 0 u.dec.outpos.toNat) [t] := by
  cases t with
  | lit b => exact ⟨_, execLit_left b left, readBytes_write_next _ _ _⟩
  | mat l d =>
    obtain ⟨operands, history⟩ := ok l d rfl
    obtain ⟨_, _, pos, _⟩ := matchOperandsOk_iff.mp operands
    exact ⟨_, execMatchTok_copies left history fits, readBytes_copyMatch pos history l _⟩

theorem one_le_span (ok : ∀ l d, t = .mat l d → matchOperandsOk l d = true ∧ d ≤ u.dec.outpos.toNat) : 1 ≤ span t := by
  cases t with
  | lit b => exact Nat.le_refl 1
  | mat l d =>
    have := matchOperandsOk_iff.mp (ok l d rfl).1
    rw [span]
    omega

theorem wellFormed_tokenInstr (ok : ∀ l d, t = .mat l d → matchOperandsOk l d = true ∧ d ≤ u.dec.outpos.toNat) :
    (tokenInstr t).wellFormed = true := by
  cases t with
  | lit b => rfl
  | mat l d => exact (ok l d rfl).1

/-- The tag that is due says which form the token has. -/
theorem form_tokenInstr (some : u.dec.bitsLeft ≠ 0) (tag : u.dec.flags.getLsbD 7 = tokenTag t) :
    (tokenInstr t).form = u.dec.nextForm := by
  cases t with
  | lit b => exact (DecRegs.nextForm_literal some tag).symm
  | mat l d => exact (DecRegs.nextForm_matchPair some tag).symm

end

/-! ## The stream loop over a legal stream -/

theorem streamRun_finished {u : State} (stage : u.stage = .stream) (past : u.dec.size.toNat ≤ u.dec.outpos.toNat)
    (k : Nat) : streamRun (k + 1) u = .next (finishDecompress u) := by
  rw [streamRun, if_pos stage, streamTurn_of_end past, andThen,
    streamRun_of_ended (by rw [finishDecompress, State.complete_stage]; decide)]

theorem u32_toNat (w : Word) : u32 w.toNat = w := by
  simp [u32]

/-- The stream stage stands before the tokens `ts` that the tags left in FLAGS announce, and the groups of the tokens
`R` behind them; their bytes are in IN, and their output fills OUT to SIZE. -/
structure Decoding (u : State) (ts R : List Token) : Prop where
  stage : u.stage = .stream
  short : ts.length ≤ 8
  tags  : ts.length ≤ u.dec.bitsLeft
  flags : ∀ j t, ts[j]? = some t → u.dec.flags.getLsbD (7 - j) = tokenTag t
  full  : R = [] ∨ ts.length = u.dec.bitsLeft
  bytes : InHolds u u.dec.rdptr.toNat (ts.flatMap tokenBytes ++ payload R)
  left  : u.dec.rdptr.toNat + (ts.flatMap tokenBytes ++ payload R).length ≤ u.cmd.n.toNat
  size  : u.dec.outpos.toNat + spans (ts ++ R) = u.dec.size.toNat
  legal : legalTokens u.dec.outpos.toNat (ts ++ R) = true

/-- `v` is `u` after the tokens `T` in `len` bytes of stream: OUT holds what they replay to, up to SIZE. -/
structure Replayed (u : State) (T : List Token) (len : Nat) (v : State) : Prop where
  size  : v.dec.size = u.dec.size
  rdptr : v.dec.rdptr.toNat = u.dec.rdptr.toNat + len
  toks  : v.dec.toks = u.dec.toks + u32 T.length
  out   : v.outMem.readBytes 0 u.dec.size.toNat = replay (u.outMem.readBytes 0 u.dec.outpos.toNat) T

section
variable {u : State} {t : Token} {ts R : List Token}

/-- A token's turn: it is fetched and executed, and the stage stands before the tokens behind it. -/
theorem Decoding.token (h : Decoding u (t :: ts) R) : ∃ m : Memory,
    internalTurn (fetchStream u) u =
        .next ((u.setOut m).setDec (u.dec.afterToken (tokenBytes t).length (span t))) ∧
      Decoding ((u.setOut m).setDec (u.dec.afterToken (tokenBytes t).length (span t))) ts R ∧
      m.readBytes 0 (u.dec.outpos.toNat + span t) = replay (u.outMem.readBytes 0 u.dec.outpos.toNat) [t] := by
  obtain ⟨stage, short, tags, flags, full, bytes, left, size, legal⟩ := h
  rw [List.cons_append] at size legal
  rw [List.flatMap_cons, List.append_assoc] at bytes left
  rw [List.length_cons] at short tags full
  rw [List.length_append] at left
  rw [spans] at size
  obtain ⟨here, later⟩ := inHolds_append.mp bytes
  obtain ⟨ok, rest⟩ := legalTokens_cons.mp legal
  have pos := one_le_span ok
  have some : u.dec.bitsLeft ≠ 0 := by omega
  obtain ⟨m, run, replayed⟩ := exec_token (u := u) ok (by omega) (by omega)
  have found : fetchStream u = .instr (tokenInstr t) :=
    fetchStream_of_inHolds (by omega) (wellFormed_tokenInstr ok) (form_tokenInstr some (flags 0 t rfl))
      (encode_tokenInstr t ▸ here) (by rw [encode_tokenInstr]; omega)
  have moved : (u.dec.outpos + u32 (span t)).toNat = u.dec.outpos.toNat + span t :=
    toNat_add_u32 (Nat.lt_of_le_of_lt (by omega) u.dec.size.isLt)
  have ahead : (u.dec.rdptr + u32 (tokenBytes t).length).toNat = u.dec.rdptr.toNat + (tokenBytes t).length :=
    toNat_rdptr_add (by omega)
  refine ⟨m, ?_, ⟨stage, by omega, Nat.le_sub_one_of_lt tags, fun j t' next => ?_, ?_, ?_, ?_, ?_, ?_⟩, replayed⟩
  · rw [found, internalTurn, internalExec_eq_exec (by cases t <;> rfl), run]
  · have inside : j < ts.length := (List.getElem?_eq_some_iff.mp next).1
    have tag := flags (j + 1) t' next
    rw [← tag]
    simp only [State.setDec_dec, DecRegs.afterToken_flags, BitVec.getLsbD_shiftLeft]
    rw [show 7 - j - 1 = 7 - (j + 1) by omega]
    simp [show 7 - j < 8 by omega, show ¬ 7 - j < 1 by omega]
  · exact full.imp_right fun same => Nat.eq_sub_of_add_eq same
  · rw [State.setDec_dec, DecRegs.afterToken_rdptr, ahead]
    exact later
  · rw [State.setDec_dec, DecRegs.afterToken_rdptr, ahead, Nat.add_assoc]
    exact left
  · rw [State.setDec_dec, DecRegs.afterToken_outpos, moved, Nat.add_assoc]
    exact size
  · rw [State.setDec_dec, DecRegs.afterToken_outpos, moved]
    exact rest

/-- A group's turn: with no tag left its control byte is fetched, and the stage stands before its tokens. -/
theorem Decoding.group (h : Decoding u [] (t :: ts)) :
    internalTurn (fetchStream u) u = .next
        (u.setDec { u.dec with rdptr := u.dec.rdptr + u32 1, flags := controlByte ((t :: ts).take 8), bitsLeft := 8 }) ∧
      Decoding
        (u.setDec { u.dec with rdptr := u.dec.rdptr + u32 1, flags := controlByte ((t :: ts).take 8), bitsLeft := 8 })
        ((t :: ts).take 8) ((t :: ts).drop 8) := by
  obtain ⟨stage, _, _, _, full, bytes, left, size, legal⟩ := h
  have none : u.dec.bitsLeft = 0 := (full.resolve_left nofun).symm
  rw [List.flatMap_nil, List.nil_append, payload_cons, groupBytes, List.cons_append] at bytes left
  rw [List.nil_append] at size legal
  rw [List.length_cons] at left
  obtain ⟨here, later⟩ := inHolds_append.mp
    (show InHolds u u.dec.rdptr.toNat (encode (.ctrlbyte (controlByte ((t :: ts).take 8))) ++ _) from bytes)
  have due : u.dec.outpos.toNat < u.dec.size.toNat := by
    have := one_le_span (legalTokens_cons.mp legal).1
    rw [spans] at size
    omega
  have found : fetchStream u = .instr (.ctrlbyte (controlByte ((t :: ts).take 8))) :=
    fetchStream_of_inHolds due rfl (DecRegs.nextForm_control none).symm here
      (show u.dec.rdptr.toNat + 1 ≤ u.cmd.n.toNat by omega)
  have ahead : (u.dec.rdptr + u32 1).toNat = u.dec.rdptr.toNat + 1 := toNat_rdptr_add (by omega)
  have short : ((t :: ts).take 8).length ≤ 8 := List.length_take_le _ _
  refine ⟨?_, ⟨stage, short, short, fun j t' next => controlByte_tag short next, ?_, ?_, ?_, ?_, ?_⟩⟩
  · rw [found, internalTurn, internalExec_eq_exec rfl, execCtrlbyte_left _ (by omega)]
  · by_cases long : 8 ≤ (t :: ts).length
    · exact .inr (List.length_take_of_le long)
    · exact .inl (List.drop_eq_nil_of_le (by omega))
  · rw [State.setDec_dec, ahead]
    exact later
  · rw [State.setDec_dec, ahead, Nat.add_assoc, Nat.add_comm 1]
    exact left
  · rw [List.take_append_drop]
    exact size
  · rw [List.take_append_drop]
    exact legal

/-- The loop ends with the tokens replayed: each turn is a token of the group, the next group's control byte, or, with
neither left, the end. -/
theorem streamRun_replays {k : Nat} (h : Decoding u ts R) (enough : u.dec.turnsLeft ≤ k) :
    ∃ v, streamRun k u = .next (finishDecompress v) ∧
      Replayed u (ts ++ R) (ts.flatMap tokenBytes ++ payload R).length v := by
  induction k generalizing u ts R with
  | zero => exact absurd enough (Nat.not_le_of_lt DecRegs.turnsLeft_pos)
  | succ k ih =>
    have later {w : State} (turn : internalTurn (fetchStream u) u = .next w) (opened : w.stage = .stream) :
        streamRun (k + 1) u = streamRun k w ∧ w.dec.turnsLeft ≤ k := by
      have less := ((turn ▸ streamTurn u).goes_on h.stage opened).2
      refine ⟨?_, by omega⟩
      rw [streamRun, if_pos h.stage, turn, andThen]
    cases ts with
    | cons t ts =>
      obtain ⟨m, turn, next, replayed⟩ := h.token
      obtain ⟨goesOn, fuel⟩ := later turn next.stage
      obtain ⟨v, run, size, rdptr, toks, out⟩ := ih next fuel
      have left := h.left
      have fits := h.size
      rw [List.cons_append, spans] at fits
      rw [List.flatMap_cons, List.append_assoc, List.length_append] at left
      have ahead := toNat_rdptr_add (s := u) (k := (tokenBytes t).length) (by omega)
      have moved : (u.dec.outpos + u32 (span t)).toNat = u.dec.outpos.toNat + span t :=
        toNat_add_u32 (Nat.lt_of_le_of_lt (by omega) u.dec.size.isLt)
      simp only [State.setDec_dec, DecRegs.afterToken_rdptr, DecRegs.afterToken_outpos, DecRegs.afterToken_toks,
        DecRegs.afterToken_size, State.setDec_outMem, State.setOut_outMem, ahead, moved] at size rdptr toks out
      refine ⟨v, goesOn.trans run, size, ?_, ?_, ?_⟩
      · rw [rdptr, List.flatMap_cons, List.append_assoc, List.length_append (as := tokenBytes t), Nat.add_assoc]
      · rw [toks, List.cons_append, List.length_cons, BitVec.add_assoc, Nat.add_comm, u32, u32, BitVec.ofNat_add]
      · rw [out, replayed]
        exact (replay_cons _ t _).symm
    | nil =>
      cases R with
      | cons r rs =>
        obtain ⟨turn, next⟩ := h.group
        obtain ⟨goesOn, fuel⟩ := later turn h.stage
        obtain ⟨v, run, size, rdptr, toks, out⟩ := ih next fuel
        have left := h.left
        rw [List.flatMap_nil, List.nil_append, payload_cons, groupBytes, List.cons_append, List.length_cons] at left
        have ahead := toNat_rdptr_add (s := u) (k := 1) (by omega)
        simp only [State.setDec_dec, State.setDec_outMem, ahead, List.take_append_drop] at size rdptr toks out
        refine ⟨v, goesOn.trans run, size, ?_, toks, out⟩
        rw [rdptr, List.flatMap_nil, List.nil_append, payload_cons, groupBytes, List.cons_append, List.length_cons]
        omega
      | nil =>
        have past : u.dec.size.toNat ≤ u.dec.outpos.toNat := h.size.ge
        refine ⟨u, ?_, rfl, rfl, (BitVec.add_zero _).symm, ?_⟩
        · exact streamRun_finished h.stage past k
        · rw [← h.size]
          rfl

end

/-! ## The header stage of DECOMPRESS (R226) -/

section
variable {s t : State} {f p : Bool} {i : Instr}

theorem exec_decompress_of_header {S : Entry} (checked : commonChecks registry .decompress f s = .ok S)
    (inside : isCommand i = false) (found : fetchHeader f (s.setStage .header) = .instr i) :
    exec (.decompress f p) s = andThen (exec i (s.setStage .header)) fun t => streamRun (streamBound t) t := by
  show execDecompress f p s = _
  rw [execDecompress, checked, found, internalTurn, internalExec_eq_exec inside]

theorem commonChecks_methodWord (hn : s.cmd.n.toNat ≤ s.params.inCap) :
    commonChecks registry .decompress true s = .ok (registry s.cmd.scheme) := by
  rw [commonChecks, if_neg (by omega), if_pos (by decide)]

/-- A size of 29 bits is kept by its field. -/
theorem toNat_ofNat29 {n : Nat} (small : n ≤ 2 ^ 29 - 1) : (BitVec.ofNat 29 n).toNat = n :=
  Nat.mod_eq_of_lt (Nat.lt_of_le_of_lt small (by decide))

/-- The header of an LZ10 stream: the stream stage starts behind it. -/
theorem exec_decompress_lz10 {size : Nat} {m : BitVec 3} {rsvd : BitVec 64} (hn : s.cmd.n.toNat ≤ s.params.inCap)
    (lz10 : f = false → s.cmd.scheme = 1#4) (mapped : f = true → methodScheme s.params m = some 1#4)
    (fits : size ≤ s.params.outCap) (small : size < 2 ^ 32) (inField : f = true → size ≤ 2 ^ 29 - 1)
    (long : headerLength f ≤ s.cmd.n.toNat)
    (holds : InHolds s 0 (if f then encode (.mword (BitVec.ofNat 29 size) m)
      else encode (.hdr16 s.params.containerTag rsvd (u32 size)))) :
    exec (.decompress f p) s =
      streamRun (streamBound ((s.setStage .header).startStream (u32 (headerLength f)) (u32 size)))
        ((s.setStage .header).startStream (u32 (headerLength f)) (u32 size)) := by
  cases f with
  | true =>
    have found : fetchHeader true (s.setStage .header) = .instr (.mword (BitVec.ofNat 29 size) m) :=
      fetchHeader_of_inHolds (s := s.setStage .header) rfl holds long
    have field := toNat_ofNat29 (inField rfl)
    have enters := execMword_enters (s := s.setStage .header) (size := BitVec.ofNat 29 size) long (mapped rfl)
      checkEntry_lz10
    rw [exec_decompress_of_header (commonChecks_methodWord hn) rfl found, enters,
      enterMethod_lz10 (s := s.setStage .header) (field.trans_le fits), field]
    rfl
  | false =>
    have found : fetchHeader false (s.setStage .header) = .instr (.hdr16 s.params.containerTag rsvd (u32 size)) :=
      fetchHeader_of_inHolds (s := s.setStage .header) rfl holds long
    have starts : exec (.hdr16 s.params.containerTag rsvd (u32 size)) (s.setStage .header) =
        .next ((s.setStage .header).startStream 16#32 (u32 size)) :=
      execHdr16_starts (s := s.setStage .header) long rfl ((toNat_u32 small).trans_le fits)
    rw [exec_decompress_of_header (commonChecks_lz10 hn (lz10 rfl)) rfl found, starts]
    rfl

/-- The method word of a NONE body: the raw copy, if it is present. -/
theorem exec_decompress_none {size : BitVec 29} {m : BitVec 3} (hn : s.cmd.n.toNat ≤ s.params.inCap)
    (mapped : methodScheme s.params m = some 0#4) (holds : InHolds s 0 (encode (.mword size m)))
    (long : 4 ≤ s.cmd.n.toNat) : exec (.decompress true p) s =
      andThen (enterMethod entryNone size (s.setStage .header)) fun t => streamRun (streamBound t) t := by
  have found : fetchHeader true (s.setStage .header) = .instr (.mword size m) :=
    fetchHeader_of_inHolds (s := s.setStage .header) rfl holds long
  have enters := execMword_enters (s := s.setStage .header) (size := size) long mapped checkEntry_none
  rw [exec_decompress_of_header (commonChecks_methodWord hn) rfl found, enters]

end

/-- Settles O32: behind the header the loop replays the tokens; what is beyond SIZE is as a completion leaves it. -/
theorem decompressReplaysTheTokens : Obligations.DecompressReplaysTheTokens := by
  intro f p s T m rsvd wf hn lz10 mapped legal fits inField long holds
  have small := Nat.lt_of_le_of_lt fits (Params.outCap_lt wf)
  have stream := streamLength_eq f T
  obtain ⟨header, body⟩ := inHolds_append.mp holds
  have size : (u32 (spans T)).toNat = spans T := toNat_u32 small
  have start : (u32 (headerLength f)).toNat = headerLength f := by cases f <;> rfl
  have behind : InHolds s (headerLength f) (payload T) := by
    cases f <;> exact body
  have decoding : Decoding ((s.setStage .header).startStream (u32 (headerLength f)) (u32 (spans T))) [] T := by
    refine ⟨rfl, Nat.zero_le _, Nat.le_refl 0, nofun, .inr rfl, ?_, ?_, ?_, legal⟩
    · show InHolds s (u32 (headerLength f)).toNat (payload T)
      rwa [start]
    · show (u32 (headerLength f)).toNat + (payload T).length ≤ s.cmd.n.toNat
      omega
    · show 0 + spans T = (u32 (spans T)).toNat
      omega
  obtain ⟨v, run, sameSize, rdptr, toks, out⟩ := streamRun_replays decoding
    (k := streamBound ((s.setStage .header).startStream (u32 (headerLength f)) (u32 (spans T)))) DecRegs.turnsLeft_le
  change v.dec.size = u32 (spans T) at sameSize
  change v.dec.rdptr.toNat = (u32 (headerLength f)).toNat + (payload T).length at rdptr
  change v.dec.toks = 0#32 + u32 T.length at toks
  change v.outMem.readBytes 0 (u32 (spans T)).toNat = replay [] T at out
  rw [start, ← stream] at rdptr
  rw [size] at out
  rw [BitVec.zero_add] at toks
  have whole := (exec_decompress_lz10 (p := p) hn lz10 mapped fits small inField (by omega) header).trans run
  refine ⟨_, whole, ⟨rfl, ?_, ?_, ?_, rfl, ⟨rfl, rfl, rfl, rfl⟩⟩, fun k inside => ?_, fun a outside => ?_,
    instructionsKeepTheHostSide _ _ _ whole⟩
  · rw [finishDecompress, State.complete_res, sameSize, size]
  · rw [finishDecompress, State.complete_res, rdptr]
  · rw [finishDecompress, State.complete_res, toks]
    exact u32_toNat _
  · rw [← out, Memory.length_readBytes] at inside
    rw [← out, Memory.getElem?_readBytes _ _ inside]
    rfl
  · refine doneLeavesOutBeyondOutLen _ _ _ rfl wf whole rfl a ?_
    rw [finishDecompress, State.complete_res, sameSize, size, size]
    omega

/-- Settles O33: the body is copied in the header stage, and the loop is at its end at once. -/
theorem decompressCopiesTheRawBody : Obligations.DecompressCopiesTheRawBody := by
  intro p s size m hn mapped holds fits long
  rw [exec_decompress_none hn mapped holds long]
  refine ⟨fun short => ?_, fun present => ?_⟩
  · rw [enterMethod_rawShort (s := s.setStage .header) fits short, andThen,
      streamRun_of_ended (by rw [State.errorEntry_stage]; decide)]
    exact ⟨_, rfl, errorEntry_entered s _ _⟩
  · obtain ⟨inWord, beyond⟩ := toNat_u32_size size
    have ends : streamRun (streamBound ((s.setStage .header).copyRaw size.toNat))
        ((s.setStage .header).copyRaw size.toNat) =
          .next (finishDecompress ((s.setStage .header).copyRaw size.toNat)) :=
      streamRun_finished rfl (Nat.le_refl _) _
    rw [enterMethod_raw (s := s.setStage .header) fits present, andThen, ends]
    refine ⟨_, rfl, ⟨rfl, ?_, ?_, rfl, rfl, ⟨rfl, rfl, rfl, rfl⟩⟩,
      fun k inside => copyRaw_holds (s.setStage .header) inside, copyRaw_outside (s.setStage .header) _, ?_⟩
    · exact congrArg u32 inWord
    · exact congrArg u32 beyond
    · exact (Working.complete_ended (working_of_fields s _ _ _ _ _ _ _) _ _ _).keeps

end Sys2Proof.Machine
end

section
/-! PROOFS. The round trip (R229): COMPRESS that completes, then DECOMPRESS of what it left in OUT. -/

namespace Sys2Proof.Machine

/-! ## What a COMPRESS that completes has checked -/

theorem usesMethod_of_methodTag {p : Params} {f : Bool} {id : BitVec 4} {m : BitVec 3} (h : methodTag f p id = .ok m) :
    UsesMethod p f id m := by
  cases f with
  | false =>
    cases h
    rfl
  | true =>
    rw [methodTag, if_pos rfl] at h
    split at h
    · cases h
    · next r found =>
      cases h
      obtain ⟨_, small, maps, before⟩ := leastMethodFrom_some found
      have field : (BitVec.ofNat 3 r).toNat = r := Nat.mod_eq_of_lt small
      refine ⟨by rw [methodScheme, field]; exact maps, fun k mapped => ?_⟩
      rw [field]
      exact Nat.le_of_not_lt fun less => before k.toNat (Nat.zero_le _) less mapped

section
variable {s t : State} {f p : Bool}

/-- Only LZ10, and NONE with FRAMING = 1, get past the common checks of COMPRESS. -/
theorem commonChecks_compress_ok {S : Entry} (h : commonChecks registry .compress f s = .ok S) :
    (s.cmd.scheme = 1#4 ∧ S = entryLz10) ∨ (s.cmd.scheme = 0#4 ∧ f = true ∧ S = entryNone) := by
  have hn := commonChecks_ok h
  obtain none | lz10 | ⟨low, high⟩ | high := schemeId_cases s.cmd.scheme
  · cases f with
    | true =>
      rw [commonChecks_compressNone hn none] at h
      exact .inr ⟨none, rfl, (Except.ok.inj h).symm⟩
    | false =>
      rw [commonChecks, if_neg (Nat.not_lt.mpr hn), none] at h
      cases h
  · rw [commonChecks_lz10 hn lz10] at h
    exact .inl ⟨lz10, (Except.ok.inj h).symm⟩
  · rw [commonChecks, if_neg (Nat.not_lt.mpr hn), if_neg (by simp [takesMethodWord]), checkEntry_noSource low high] at h
    cases h
  · rw [commonChecks, if_neg (Nat.not_lt.mpr hn), if_neg (by simp [takesMethodWord]), checkEntry_unregistered high] at h
    cases h

/-- The checks that a COMPRESS passed when it ends with DONE. -/
theorem compress_done (h : exec (.compress f p) s = .next t) (done : t.status.done = true) :
    s.cmd.n.toNat ≤ s.params.inCap ∧ ∃ m, UsesMethod s.params f s.cmd.scheme m ∧
      (f = true → s.cmd.n.toNat ≤ 2 ^ 29 - 1) ∧
      ((s.cmd.scheme = 1#4 ∧ streamLength f (optimalParse entryLz10 s.input) ≤ s.params.outCap) ∨
        (s.cmd.scheme = 0#4 ∧ f = true ∧ 4 + s.cmd.n.toNat ≤ s.params.outCap)) := by
  obtain ok | ⟨e, off, _, rfl⟩ := settle_next (exec_compress_eq f p s ▸ h)
  · cases checked : commonChecks registry .compress f s with
    | error e =>
      rw [compressResult, checked] at ok
      cases ok
    | ok S =>
      cases tag : methodTag f s.params s.cmd.scheme with
      | error e =>
        rw [compressResult, checked] at ok
        simp only [tag] at ok
        cases ok
      | ok m =>
        have uses := usesMethod_of_methodTag tag
        rw [compressResult_eq checked uses] at ok
        refine ⟨commonChecks_ok checked, m, uses, ?_⟩
        split at ok
        · cases ok
        · next inField =>
          refine ⟨fun framing1 => ?_, ?_⟩
          · subst framing1
            exact Nat.le_of_not_lt inField
          · obtain ⟨lz10, rfl⟩ | ⟨none, framing1, rfl⟩ := commonChecks_compress_ok checked
            · rw [if_neg (by decide), compressTokens_lz10] at ok
              split at ok
              · cases ok
              · exact .inl ⟨lz10, Nat.le_of_not_lt ‹_›⟩
            · rw [if_pos (by decide), compressRaw] at ok
              split at ok
              · cases ok
              · exact .inr ⟨none, framing1, Nat.le_of_not_lt ‹_›⟩
  · cases done

end

/-! ## The stream that was written is a stream to read -/

/-- The reserved bytes of a header, as they stand in IN. -/
def reservedBytes (u : State) : BitVec 64 :=
  le64 (u.inMem.read 4) (u.inMem.read 5) (u.inMem.read 6) (u.inMem.read 7)
    (u.inMem.read 8) (u.inMem.read 9) (u.inMem.read 10) (u.inMem.read 11)

theorem putLE64_reservedBytes (u : State) : putLE64 (reservedBytes u) = u.inMem.readBytes 4 8 := by
  rw [reservedBytes, putLE64_le64]
  rfl

theorem getElem?_append_append (as bs cs : List Byte) (k : Nat) :
    (as ++ (bs ++ cs))[as.length + bs.length + k]? = cs[k]? := by
  rw [← List.append_assoc, ← List.length_append, List.getElem?_append_right (Nat.le_add_right _ _),
    Nat.add_sub_cancel_left]

/-- A copy in IN of a stream that OUT holds is header and payload, with the reserved bytes that stand there. -/
theorem inHolds_of_outHoldsStream {t u : State} {f p : Bool} {n : Nat} {m : BitVec 3} {T : List Token}
    (stream : OutHoldsStream t f p n m T) (copied : ∀ a, a < streamLength f T → u.inMem.read a = t.outMem.read a) :
    InHolds u 0 ((if f then encode (.mword (BitVec.ofNat 29 n) m)
      else encode (.hdr16 t.params.containerTag (reservedBytes u) (u32 n))) ++ payload T) := by
  have length := streamLength_eq f T
  have written {k : Nat} (inside : k < streamLength f T) (outside : ¬ (f = false ∧ 4 ≤ k ∧ k < 12)) :
      (headerBytes t.params f n m ++ payload T)[k]? = some (u.inMem.read k) := by
    rw [copied k inside]
    exact stream k inside fun ⟨framing0, _, low, high⟩ => outside ⟨framing0, low, high⟩
  cases f with
  | true =>
    intro k inside
    rw [Nat.zero_add]
    refine written ?_ nofun
    rw [length]
    rwa [List.length_append] at inside
  | false =>
    have bytes : headerBytes t.params false n m ++ payload T =
        putLE32 t.params.containerTag ++ (putLE64 0#64 ++ (putLE32 (u32 n) ++ payload T)) := by
      simp [headerBytes, encode]
    have parts : encode (.hdr16 t.params.containerTag (reservedBytes u) (u32 n)) ++ payload T =
        putLE32 t.params.containerTag ++ (u.inMem.readBytes 4 8 ++ (putLE32 (u32 n) ++ payload T)) := by
      simp [encode, putLE64_reservedBytes]
    rw [bytes] at written
    rw [if_neg (by decide), parts, inHolds_append, inHolds_append]
    have header : headerLength false = 16 := rfl
    refine ⟨fun k inside => ?_, fun k inside => ?_, fun k inside => ?_⟩
    · rw [length_putLE32] at inside
      rw [Nat.zero_add, ← written (k := k) (by omega) (by omega), List.getElem?_append_left (by simpa using inside)]
    · exact Memory.getElem?_readBytes _ _ (by simpa using inside)
    · rw [List.length_append, length_putLE32] at inside
      rw [Memory.length_readBytes, length_putLE32, ← written (k := 4 + 8 + k) (by omega) (by omega)]
      exact (getElem?_append_append (putLE32 t.params.containerTag) (putLE64 0#64) _ k).symm

/-- The bytes of the input are those of IN below cmd.N. -/
theorem getElem?_input (s : State) {a : Nat} (inside : a < s.cmd.n.toNat) : s.input[a]? = some (s.inMem.read a) := by
  rw [State.input, Memory.getElem?_readBytes _ _ inside, Nat.zero_add]

/-- Settles O35: the stream of the optimal parse replays to the input, the raw body is the input. -/
theorem compressThenDecompressIsIdentity : Obligations.CompressThenDecompressIsIdentity := by
  intro f p q s t u wf h done params scheme n copied inFits outFits
  obtain ⟨hn, m, uses, inField, ⟨lz10, fits⟩ | ⟨none, framing1, fits⟩⟩ := compress_done h done
  · obtain ⟨tokens, _⟩ := compressWritesTheStream f p s m wf hn uses inField
    obtain ⟨t', h', ends, stream, _, _, keeps⟩ := tokens _ lz10 rfl fits
    obtain rfl : t' = t := Host.Outcome.next.inj (h'.symm.trans h)
    have covers : Covers entryLz10 s.input 0 (optimalParse entryLz10 s.input) := optimalParse_covers rfl rfl
    have spans' : spans (optimalParse entryLz10 s.input) = s.cmd.n.toNat := by
      rw [← Nat.zero_add (spans _), covers.add_spans, State.input, Memory.length_readBytes]
    have outLen : t'.res.outLen.toNat = streamLength f (optimalParse entryLz10 s.input) := by
      rw [ends.outLen, toNat_u32 (Nat.lt_of_le_of_lt fits (Params.outCap_lt wf))]
    have holds := inHolds_of_outHoldsStream (u := u) stream (outLen ▸ copied)
    rw [← spans', keeps.params, ← params] at holds
    rw [lz10] at uses
    obtain ⟨v, run, vEnds, out, _, _⟩ := decompressReplaysTheTokens f q u _ m (reservedBytes u) (params ▸ wf)
      (by rw [n, params]; exact inFits) (fun _ => scheme.trans lz10)
      (fun framing1 => by subst framing1; rw [params]; exact uses.1) covers.legalTokens_lz10
      (by rw [spans', params]; exact outFits) (by rw [spans']; exact inField) (by rw [n, outLen]) holds
    refine ⟨v, run, by rw [vEnds.status], ?_, fun a inside => ?_⟩
    · rw [vEnds.outLen, spans']
      exact u32_toNat _
    · rw [replayOfAParseIsTheInput _ _ _ rfl rfl rfl covers] at out
      have byte := out a (by rw [State.input, Memory.length_readBytes]; exact inside)
      rw [getElem?_input s inside, Nat.zero_add] at byte
      exact (Option.some.inj byte).symm
  · subst framing1
    obtain ⟨_, raw⟩ := compressWritesTheStream true p s m wf hn uses inField
    obtain ⟨t', h', ends, body, _, _⟩ := raw none rfl fits
    obtain rfl : t' = t := Host.Outcome.next.inj (h'.symm.trans h)
    have outLen : t'.res.outLen.toNat = 4 + s.cmd.n.toNat := by
      rw [ends.outLen, toNat_u32 (Nat.lt_of_le_of_lt fits (Params.outCap_lt wf))]
    have size := toNat_ofNat29 (inField rfl)
    have length : (encode (.mword (BitVec.ofNat 29 s.cmd.n.toNat) m) ++ s.input).length = 4 + s.cmd.n.toNat := by
      rw [List.length_append, State.input, Memory.length_readBytes]
      rfl
    have holds : InHolds u 0 (encode (.mword (BitVec.ofNat 29 s.cmd.n.toNat) m) ++ s.input) := by
      intro k inside
      rw [body k inside, Nat.zero_add, copied k (by omega)]
    obtain ⟨word, input⟩ := inHolds_append.mp holds
    have present : (BitVec.ofNat 29 s.cmd.n.toNat).toNat ≤ u.cmd.n.toNat - 4 := by rw [n, outLen, size]; omega
    obtain ⟨_, copies⟩ := decompressCopiesTheRawBody q u (BitVec.ofNat 29 s.cmd.n.toNat) m
      (by rw [n, params]; exact inFits) (by rw [params, ← none]; exact uses.1) word
      (by rw [size, params]; exact outFits) (by rw [n, outLen]; omega)
    obtain ⟨v, run, vEnds, out, _, _⟩ := copies present
    refine ⟨v, run, by rw [vEnds.status], ?_, fun a inside => ?_⟩
    · rw [vEnds.outLen, size]
      exact u32_toNat _
    · rw [out a (by rw [size]; exact inside)]
      have byte := input a (by rw [State.input, Memory.length_readBytes]; exact inside)
      rw [getElem?_input s inside] at byte
      exact (Option.some.inj byte).symm

end Sys2Proof.Machine
end

section
/-! PROOFS. The checks that every command meets first (R245). -/

namespace Sys2Proof.Machine

section
variable {s : State} {c : Command} {f : Bool} {i : Instr}

/-! ## The OP -/

/-- A reserved OP is IllegalCommand, whatever else is latched. -/
theorem fetchCommand_reserved (reserved : s.cmd.op = 0#4 ∨ 7 ≤ s.cmd.op.toNat) :
    fetchCommand s = .ended (.next (s.errorEntry .illegalCommand 0)) := by
  have noCommand : ∀ op : BitVec 4, op = 0#4 ∨ 7 ≤ op.toNat →
      op ≠ opFind ∧ op ≠ opPrice ∧ op ≠ opParse ∧ op ≠ opEncode ∧ op ≠ opCompress ∧ op ≠ opDecompress := by decide
  obtain ⟨find, price, parse, encode, compress, decompress⟩ := noCommand s.cmd.op reserved
  obtain ⟨i, latched, _⟩ | ended := fetchCommand_cases s
  · obtain ⟨op, _⟩ | ⟨op, _⟩ | ⟨op, _⟩ | ⟨op, _⟩ | ⟨op, _⟩ | ⟨op, _⟩ := latched_cases latched
    · exact absurd op find
    · exact absurd op price
    · exact absurd op parse
    · exact absurd op encode
    · exact absurd op compress
    · exact absurd op decompress
  · exact ended

/-! ## cmd.N and the scheme -/

theorem commonChecks_inCap (large : s.params.inCap < s.cmd.n.toNat) :
    commonChecks registry c f s = .error (.raise .illegalCommand 0) := if_pos large

/-- Unless the method word gives the scheme, an entry that fails its check ends the command as the check says. -/
theorem commonChecks_checkEntry {e : Stop} (hn : s.cmd.n.toNat ≤ s.params.inCap)
    (latched : ¬ takesMethodWord c f = true) (check : checkEntry (registry s.cmd.scheme) = .error e) :
    commonChecks registry c f s = .error e := by
  rw [commonChecks, if_neg (by omega), if_neg latched, check]

theorem commonChecks_noneRejects (hn : s.cmd.n.toNat ≤ s.params.inCap) (latched : ¬ takesMethodWord c f = true)
    (none : s.cmd.scheme = 0#4) (rejects : noneRejects entryNone c f = true) :
    commonChecks registry c f s = .error (.raise .illegalCommand 0) := by
  rw [commonChecks, if_neg (by omega), if_neg latched, none, checkEntry_none]
  exact if_pos rejects

/-- A command makes its common checks first: where they end it, it ends. -/
theorem exec_checks (command : isCommand i = true) : ∃ c f,
    (takesMethodWord c f = true → ∃ p, i = .decompress true p) ∧
    (noneRejects entryNone c f = false → (∃ p, i = .compress true p) ∨ ∃ p, i = .decompress true p) ∧
    ∀ s e, commonChecks registry c f s = .error e → exec i s = settle s (.error e) := by
  cases i with
  | ctrlbyte | lit | matchTok | hdr16 | mword | tokrecLit | tokrecMatch | candrec => cases command
  | find f p =>
    refine ⟨.find, f, nofun, nofun, fun s e h => ?_⟩
    rw [exec_find_eq, openFind, h]
    rfl
  | price f p =>
    refine ⟨.price, f, nofun, nofun, fun s e h => ?_⟩
    show priceOver registry f s = _
    rw [priceOver, h]
  | parse f p =>
    refine ⟨.parse, f, nofun, nofun, fun s e h => ?_⟩
    rw [exec_parse_eq, openParse, h]
    rfl
  | encode f p =>
    refine ⟨.encode, f, nofun, nofun, fun s e h => ?_⟩
    rw [exec_encode_eq, encodeResult, openEncode, h]
  | compress f p =>
    refine ⟨.compress, f, nofun, fun served => .inl ?_, fun s e h => ?_⟩
    · cases f with
      | true => exact ⟨p, rfl⟩
      | false => cases served
    · rw [exec_compress_eq, compressResult, h]
  | decompress f p =>
    have framing1 (h : f = true) : ∃ p', Instr.decompress f p = .decompress true p' := ⟨p, by rw [h]⟩
    refine ⟨.decompress, f, framing1, fun served => .inr (framing1 ?_), fun s e h => ?_⟩
    · cases f with
      | true => rfl
      | false => cases served
    · show execDecompress f p s = _
      rw [execDecompress, h]

/-- No entry of the registry is BACKWARDS (R23). -/
theorem registry_forwards (id : BitVec 4) : (registry id).backwards = false := by
  obtain rfl | rfl | ⟨low, high⟩ | high := schemeId_cases id
  · rfl
  · rfl
  · obtain ⟨name, entry⟩ := registry_noSource low high
    rw [entry]
    rfl
  · rw [registry_unregistered high]
    rfl

end

/-- Settles O41: the fetch checks OP, the common checks the rest, before the command does anything else. -/
theorem commonChecksInOrder : Obligations.CommonChecksInOrder := by
  refine ⟨fun s u turn busy stage reserved => ?_, fun i s command => ?_, registry_forwards⟩
  · have ends {o : Outcome} (run : step s = o) (moved : o = .next (u.errorEntry .illegalCommand 0)) :
        ∃ t, step s = .next t ∧ ErrorEntered u t .illegalCommand 0 :=
      ⟨_, run.trans moved, errorEntry_entered u _ _⟩
    obtain turn | ⟨rest, due, rfl⟩ := turn
    · obtain ⟨ag, rfl⟩ := turn.setAgenda_eq
      refine ends (step_of_engineTurn turn busy) ?_
      rw [engineTurn, fetch_command (s := s.setAgenda ag) stage, fetchCommand_reserved (s := s.setAgenda ag) reserved]
    · refine ends (step_internal due busy stage) ?_
      rw [openTurn, fetchCommand_reserved (s := s.setAgenda rest) reserved]
  · obtain ⟨c, f, word, served, checks⟩ := exec_checks command
    have raises {e : ErrCode} (h : commonChecks registry c f s = .error (.raise e 0)) :
        ∃ t, exec i s = .next t ∧ ErrorEntered s t e 0 :=
      ⟨_, checks s _ h, errorEntry_entered s _ _⟩
    refine ⟨fun large => raises (commonChecks_inCap large), fun hn noWord => ?_⟩
    have latched : ¬ takesMethodWord c f = true := fun takes => by
      obtain ⟨p, same⟩ := word takes
      exact noWord p same
    refine ⟨fun high => raises (commonChecks_checkEntry hn latched (checkEntry_unregistered high)),
      fun low high => checks s _ (commonChecks_checkEntry hn latched (checkEntry_noSource low high)),
      fun none noRaw => raises (commonChecks_noneRejects hn latched none ?_)⟩
    by_contra accepts
    obtain ⟨p, same⟩ | ⟨p, same⟩ := served (Bool.eq_false_iff.mpr accepts)
    · exact noRaw p same
    · exact noWord p same

end Sys2Proof.Machine
end

section
/-! PROOFS. A command reads nothing but the latched operands, IN, OUT and the parameters (R216, R178): two states alike
in these get the same end, whatever their other registers hold. -/

namespace Sys2Proof.Machine

/-! ## States alike in what a command may read -/

/-- The two states agree on all that a command may read, and on the next draw. -/
structure Alike (s t : State) : Prop where
  params : t.params = s.params
  cmd    : t.cmd = s.cmd
  inMem  : t.inMem = s.inMem
  outMem : t.outMem = s.outMem
  draws  : t.draws = s.draws

/-- The two states show the host the same end of a command. -/
structure SameEnd (u v : State) : Prop where
  status : v.status = u.status
  res    : v.res = u.res
  outMem : v.outMem = u.outMem

/-- The two outcomes are of one kind, with next states that correspond. -/
inductive Corresponds (R : State → State → Prop) : Outcome → Outcome → Prop
  | next {s t : State} (h : R s t) : Corresponds R (.next s) (.next t)
  | fault (r : Fault) : Corresponds R (.fault r) (.fault r)
  | refused (r : Refusal) : Corresponds R (.refused r) (.refused r)

theorem Corresponds.andThen {R Q : State → State → Prop} {o o' : Outcome} {f g : State → Outcome}
    (h : Corresponds R o o') (later : ∀ s t, R s t → Corresponds Q (f s) (g t)) :
    Corresponds Q (andThen o f) (Machine.andThen o' g) := by
  cases h with
  | next same => exact later _ _ same
  | fault r => exact .fault r
  | refused r => exact .refused r

namespace Alike

variable {s t : State} (h : Alike s t)
include h

theorem input : t.input = s.input := by rw [State.input, State.input, h.inMem, h.cmd]

theorem commonChecks (reg : Registry) (c : Command) (f : Bool) :
    commonChecks reg c f t = Machine.commonChecks reg c f s := by
  rw [Machine.commonChecks, Machine.commonChecks, h.params, h.cmd]

theorem complete (n a b : Nat) : SameEnd (s.complete n a b) (t.complete n a b) := ⟨rfl, rfl, h.outMem⟩

theorem errorEntry (e : ErrCode) (off : Nat) : SameEnd (s.errorEntry e off) (t.errorEntry e off) :=
  ⟨rfl, rfl, h.outMem⟩

theorem streamError (size : t.dec.size = s.dec.size) (e : ErrCode) (off : Nat) :
    SameEnd (s.streamError e off) (t.streamError e off) :=
  ⟨rfl, rfl, by rw [State.streamError_outMem, State.streamError_outMem, h.outMem, h.draws, size]⟩

theorem settle_error (e : Stop) : Corresponds SameEnd (settle s (.error e)) (settle t (.error e)) := by
  cases e with
  | raise e off => exact .next (h.errorEntry e off)
  | refuse r => exact .refused r

theorem setStage (v : Stage) : Alike (s.setStage v) (t.setStage v) := ⟨h.params, h.cmd, h.inMem, h.outMem, h.draws⟩

theorem setOut (m : Memory) : Alike (s.setOut m) (t.setOut m) := ⟨h.params, h.cmd, h.inMem, rfl, h.draws⟩

/-- Bytes emitted at the same WRPTR leave states alike, with the same WRPTR. -/
theorem emit (wrptr : t.enc.wrptr = s.enc.wrptr) (bs : List Byte) :
    Alike (s.emit bs) (t.emit bs) ∧ (t.emit bs).enc.wrptr = (s.emit bs).enc.wrptr :=
  ⟨⟨h.params, h.cmd, h.inMem, by rw [State.emit_outMem, State.emit_outMem, h.outMem, wrptr], h.draws⟩,
    congrArg (· + u32 bs.length) wrptr⟩

theorem emitAll (wrptr : t.enc.wrptr = s.enc.wrptr) (blocks : List (List Byte)) :
    Alike (emitAll blocks s) (Machine.emitAll blocks t) := by
  induction blocks generalizing s t with
  | nil => exact h
  | cons b blocks ih => exact ih (h.emit wrptr b).1 (h.emit wrptr b).2

theorem emitGroups (wrptr : t.enc.wrptr = s.enc.wrptr) (gs : List (List Token)) :
    Alike (gs.foldl State.emitGroup s) (gs.foldl State.emitGroup t) := by
  induction gs generalizing s t with
  | nil => exact h
  | cons g gs ih =>
    refine ih ⟨h.params, h.cmd, h.inMem, ?_, h.draws⟩ ?_
    · rw [emitGroup_outMem, emitGroup_outMem, h.outMem, wrptr]
    · rw [emitGroup_wrptr, emitGroup_wrptr, wrptr]

theorem putStreamHeader (f p : Bool) (n : Nat) (m : BitVec 3) :
    Alike (s.putStreamHeader f p n m) (t.putStreamHeader f p n m) ∧
      (t.putStreamHeader f p n m).enc.wrptr = (s.putStreamHeader f p n m).enc.wrptr := by
  have working := (putStreamHeader_working s f p n m)
  have working' := (putStreamHeader_working t f p n m)
  refine ⟨⟨?_, ?_, ?_, ?_, ?_⟩, BitVec.eq_of_toNat_eq ?_⟩
  · rw [working.keeps.params, working'.keeps.params, h.params]
  · rw [working.keeps.cmd, working'.keeps.cmd, h.cmd]
  · rw [working.keeps.inMem, working'.keeps.inMem, h.inMem]
  · rw [putStreamHeader_outMem, putStreamHeader_outMem, h.outMem, h.params]
  · rw [working.draws, working'.draws, h.draws]
  · rw [putStreamHeader_wrptr, putStreamHeader_wrptr]

theorem putStream (f p : Bool) (n : Nat) (m : BitVec 3) (T : List Token) :
    Alike (s.putStream f p n m T) (t.putStream f p n m T) :=
  (h.putStreamHeader f p n m).1.emitGroups (h.putStreamHeader f p n m).2 _

/-! ## The commands that settle their whole run -/

theorem finishFind (wrptr : t.enc.wrptr = s.enc.wrptr) (cands : t.cands = s.cands) :
    SameEnd (finishFind (putCands s.cands s)) (Machine.finishFind (putCands t.cands t)) := by
  rw [finishFind_putCands, finishFind_putCands, cands]
  exact (h.emitAll wrptr _).complete _ _ _

theorem finishParse (wrptr : t.enc.wrptr = s.enc.wrptr) (seq : t.seq = s.seq) :
    SameEnd (finishParse registry (putTokens s.seq s)) (Machine.finishParse registry (putTokens t.seq t)) := by
  rw [finishParse_putTokens, finishParse_putTokens, seq, h.cmd]
  exact (h.emitAll wrptr _).complete _ _ _

theorem find (f p : Bool) : Corresponds SameEnd (exec (.find f p) s) (exec (.find f p) t) := by
  rw [exec_find_eq, exec_find_eq, openFind, openFind, h.commonChecks, h.cmd, h.params, h.input]
  cases Machine.commonChecks registry .find f s with
  | error e => exact h.settle_error e
  | ok S =>
    dsimp only
    split
    · exact h.settle_error _
    · split
      · exact h.settle_error _
      · refine .next (Alike.finishFind ?_ rfl rfl)
        exact ⟨rfl, rfl, h.inMem, h.outMem, h.draws⟩

theorem price (f p : Bool) : Corresponds SameEnd (exec (.price f p) s) (exec (.price f p) t) := by
  show Corresponds SameEnd (priceOver registry f s) (priceOver registry f t)
  rw [priceOver, priceOver, h.commonChecks, h.cmd]
  cases Machine.commonChecks registry .price f s with
  | error e => exact h.settle_error e
  | ok S =>
    dsimp only
    split
    · exact h.settle_error _
    · exact .next (h.complete _ _ _)

theorem parse (f p : Bool) : Corresponds SameEnd (exec (.parse f p) s) (exec (.parse f p) t) := by
  rw [exec_parse_eq, exec_parse_eq, openParse, openParse, h.commonChecks, h.params, h.input]
  cases Machine.commonChecks registry .parse f s with
  | error e => exact h.settle_error e
  | ok S =>
    dsimp only
    split
    · exact h.settle_error _
    · refine .next (Alike.finishParse ?_ rfl rfl)
      exact ⟨rfl, h.cmd, h.inMem, h.outMem, h.draws⟩

/-- Records are read from IN alone, to the same tokens. -/
theorem readRecord (reg : Registry) (seq : t.seq = s.seq) :
    readRecord reg t = (Machine.readRecord reg s).map fun u => t.setSeq u.seq := by
  rw [Machine.readRecord, Machine.readRecord, State.recordWindow, State.recordWindow, h.inMem, seq]
  split
  · rw [takeLit, takeLit, seq]
    rfl
  · have entry : reg t.cmd.scheme = reg s.cmd.scheme := by rw [h.cmd]
    rw [takeMatch, takeMatch, seq, entry]
    split <;> rfl
  · rfl
  · rfl

theorem readRecords (reg : Registry) (seq : t.seq = s.seq) (k : Nat) :
    readRecords reg k t = (Machine.readRecords reg k s).map fun u => t.setSeq u.seq := by
  induction k generalizing s t with
  | zero =>
    rw [Machine.readRecords, Machine.readRecords, Except.map, ← seq]
    rfl
  | succ k ih =>
    rw [Machine.readRecords, Machine.readRecords, h.readRecord reg seq]
    cases read : Machine.readRecord reg s with
    | error e => rfl
    | ok u =>
      obtain ⟨token, rfl⟩ := readRecord_ok read
      exact ih ⟨h.params, h.cmd, h.inMem, h.outMem, h.draws⟩ rfl

theorem finishEncode {u v : State} (start : Alike u v) (seq : v.seq = u.seq) (f p : Bool) :
    Corresponds SameEnd (settle s (finishEncode f p u)) (settle t (Machine.finishEncode f p v)) := by
  rw [Machine.finishEncode, Machine.finishEncode, start.params, start.cmd, seq]
  split
  · exact h.settle_error _
  · split
    · exact h.settle_error _
    · split
      · exact h.settle_error _
      · exact .next ((start.putStream _ _ _ _ _).complete _ _ _)

theorem readingRecords (T : List Token) : Alike (s.readingRecords T) (t.readingRecords T) :=
  ⟨h.params, h.cmd, h.inMem, h.outMem, h.draws⟩

theorem openEncode (reg : Registry) (f : Bool) :
    (∃ e, openEncode reg f s = .error e ∧ Machine.openEncode reg f t = .error e) ∨
      (Machine.openEncode reg f s = .ok (s.readingRecords []) ∧
        Machine.openEncode reg f t = .ok (t.readingRecords [])) := by
  have tag : methodTag f t.params t.cmd.scheme = methodTag f s.params s.cmd.scheme := by rw [h.params, h.cmd]
  have n : t.cmd.n = s.cmd.n := by rw [h.cmd]
  rw [Machine.openEncode, Machine.openEncode, h.commonChecks, tag, n]
  split
  · exact .inl ⟨_, rfl, rfl⟩
  · split
    · exact .inl ⟨_, rfl, rfl⟩
    · split
      · exact .inl ⟨_, rfl, rfl⟩
      · exact .inr ⟨rfl, rfl⟩

theorem encode (f p : Bool) : Corresponds SameEnd (exec (.encode f p) s) (exec (.encode f p) t) := by
  rw [exec_encode_eq, exec_encode_eq]
  obtain ⟨e, stopped, stopped'⟩ | ⟨opened, opened'⟩ := h.openEncode registry f
  · rw [encodeResult, encodeResult, stopped, stopped']
    exact h.settle_error e
  · have n : t.cmd.n = s.cmd.n := by rw [h.cmd]
    rw [encodeResult_opened opened, encodeResult_opened opened', n, (h.readingRecords []).readRecords registry rfl]
    cases read : Machine.readRecords registry (s.cmd.n.toNat / 8) (s.readingRecords []) with
    | error e => exact h.settle_error e
    | ok u =>
      obtain ⟨T, rfl⟩ := readRecords_ok read
      exact h.finishEncode (h.readingRecords T) rfl f p

theorem compress (f p : Bool) : Corresponds SameEnd (exec (.compress f p) s) (exec (.compress f p) t) := by
  rw [exec_compress_eq, exec_compress_eq, compressResult, compressResult, h.commonChecks, h.params, h.cmd]
  cases Machine.commonChecks registry .compress f s with
  | error e => exact h.settle_error e
  | ok S =>
    dsimp only
    cases methodTag f s.params s.cmd.scheme with
    | error e => exact h.settle_error e
    | ok m =>
      dsimp only
      split
      · exact h.settle_error _
      · split
        · rw [compressRaw, compressRaw, h.params, h.cmd, h.input]
          split
          · exact h.settle_error _
          · obtain ⟨header, wrptr⟩ := h.putStreamHeader true false s.cmd.n.toNat m
            exact .next ((header.emit wrptr _).1.complete _ _ _)
        · simp only [compressTokens, h.params, h.cmd, h.input]
          split
          · exact h.settle_error _
          · exact .next ((h.putStream _ _ _ _ _).complete _ _ _)

end Alike

/-! ## DECOMPRESS -/

/-- The two states are alike in the stream stage: FLAGS may differ while no tag is left, since it is loaded before its
first use (R183). -/
structure StreamAlike (s t : State) : Prop where
  alike : Alike s t
  opened : s.stage = .stream ∧ t.stage = .stream
  dec   : t.dec = { s.dec with flags := t.dec.flags }
  flags : s.dec.bitsLeft ≠ 0 → t.dec.flags = s.dec.flags

/-- The two states run on alike in the stream stage, or have come to the same end. -/
inductive RunsAlike (s t : State) : Prop
  | goesOn (h : StreamAlike s t)
  | ended (h : SameEnd s t) (past : s.stage ≠ .stream ∧ t.stage ≠ .stream)

theorem RunsAlike.errorEntry {s t : State} (h : Alike s t) (e : ErrCode) (off : Nat) :
    Corresponds RunsAlike (.next (s.errorEntry e off)) (.next (t.errorEntry e off)) :=
  .next (.ended (h.errorEntry e off) ⟨nofun, nofun⟩)

namespace StreamAlike

variable {s t : State} (h : StreamAlike s t)
include h

theorem rdptr : t.dec.rdptr = s.dec.rdptr := by rw [h.dec]
theorem outpos : t.dec.outpos = s.dec.outpos := by rw [h.dec]
theorem size : t.dec.size = s.dec.size := by rw [h.dec]
theorem bitsLeft : t.dec.bitsLeft = s.dec.bitsLeft := by rw [h.dec]
theorem toks : t.dec.toks = s.dec.toks := by rw [h.dec]

theorem nextStreamInstr : nextStreamInstr t = Machine.nextStreamInstr s := by
  rw [Machine.nextStreamInstr, Machine.nextStreamInstr, h.bitsLeft, h.rdptr, h.alike.inMem]
  split
  · rfl
  · next some => rw [h.flags some]

theorem streamError (e : ErrCode) (off : Nat) :
    Corresponds RunsAlike (.next (s.streamError e off)) (.next (t.streamError e off)) :=
  .next (.ended (h.alike.streamError h.size e off) ⟨nofun, nofun⟩)

/-- A token leaves the states alike: with a tag left their FLAGS are the same. -/
theorem afterToken (some : s.dec.bitsLeft ≠ 0) (m : Memory) (len out : Nat) :
    StreamAlike ((s.setOut m).setDec (s.dec.afterToken len out)) ((t.setOut m).setDec (t.dec.afterToken len out)) := by
  have same : t.dec = s.dec := by
    rw [h.dec, h.flags some]
  refine ⟨⟨h.alike.params, h.alike.cmd, h.alike.inMem, rfl, h.alike.draws⟩, h.opened, ?_, fun _ => ?_⟩ <;>
    simp only [State.setDec_dec, same]

theorem control (f : Byte) : Corresponds RunsAlike (exec (.ctrlbyte f) s) (exec (.ctrlbyte f) t) := by
  show Corresponds RunsAlike (execCtrlbyte f s) (execCtrlbyte f t)
  rw [execCtrlbyte, execCtrlbyte, h.alike.cmd, h.rdptr]
  split
  · exact h.streamError _ _
  · refine .next (.goesOn ⟨⟨h.alike.params, h.alike.cmd, h.alike.inMem, h.alike.outMem, h.alike.draws⟩, h.opened, ?_,
      fun _ => rfl⟩)
    simp only [State.setDec_dec, h.outpos, h.size, h.toks]

theorem literal (some : s.dec.bitsLeft ≠ 0) (b : Byte) :
    Corresponds RunsAlike (exec (.lit b) s) (exec (.lit b) t) := by
  show Corresponds RunsAlike (execLit b s) (execLit b t)
  rw [execLit, execLit, h.alike.cmd, h.rdptr, h.outpos, h.alike.outMem]
  split
  · exact h.streamError _ _
  · exact .next (.goesOn (h.afterToken some _ _ _))

theorem matchToken (some : s.dec.bitsLeft ≠ 0) (l d : Nat) :
    Corresponds RunsAlike (exec (.matchTok l d) s) (exec (.matchTok l d) t) := by
  show Corresponds RunsAlike (execMatchTok l d s) (execMatchTok l d t)
  rw [execMatchTok, execMatchTok, h.alike.cmd, h.rdptr, h.outpos, h.size, h.alike.outMem]
  split
  · exact h.streamError _ _
  · split
    · exact h.streamError _ _
    · split
      · exact h.streamError _ _
      · exact .next (.goesOn (h.afterToken some _ _ _))

theorem turn : Corresponds RunsAlike (internalTurn (fetchStream s) s) (internalTurn (fetchStream t) t) := by
  by_cases due : s.dec.outpos.toNat < s.dec.size.toNat
  · rw [streamTurn_eq_exec due, streamTurn_eq_exec (by rwa [h.outpos, h.size]), h.nextStreamInstr,
      Machine.nextStreamInstr]
    split
    · exact h.control _
    · next some =>
      split
      · exact h.matchToken some _ _
      · exact h.literal some _
  · have past := Nat.le_of_not_lt due
    rw [streamTurn_of_end past, streamTurn_of_end (by rwa [h.outpos, h.size]), finishDecompress, finishDecompress,
      h.size, h.rdptr, h.toks]
    exact .next (.ended (h.alike.complete _ _ _) ⟨nofun, nofun⟩)

end StreamAlike

theorem RunsAlike.streamRun {s t : State} (h : RunsAlike s t) (k : Nat) :
    Corresponds SameEnd (streamRun k s) (Machine.streamRun k t) := by
  induction k generalizing s t with
  | zero =>
    cases h with
    | goesOn h =>
      rw [Machine.streamRun, Machine.streamRun, if_pos h.opened.1, if_pos h.opened.2]
      exact .fault _
    | ended same past =>
      rw [streamRun_of_ended past.1, streamRun_of_ended past.2]
      exact .next same
  | succ k ih =>
    cases h with
    | goesOn h =>
      rw [Machine.streamRun, Machine.streamRun, if_pos h.opened.1, if_pos h.opened.2]
      exact h.turn.andThen fun _ _ next => ih next
    | ended same past =>
      rw [streamRun_of_ended past.1, streamRun_of_ended past.2]
      exact .next same

namespace Alike

variable {s t : State} (h : Alike s t)
include h

theorem startStream (start size : Word) : StreamAlike (s.startStream start size) (t.startStream start size) :=
  ⟨⟨h.params, h.cmd, h.inMem, h.outMem, h.draws⟩, ⟨rfl, rfl⟩, rfl, fun some => absurd rfl some⟩

theorem copyRaw (size : Nat) : StreamAlike (s.copyRaw size) (t.copyRaw size) := by
  refine ⟨⟨h.params, h.cmd, h.inMem, ?_, h.draws⟩, ⟨rfl, rfl⟩, rfl, fun some => absurd rfl some⟩
  show t.outMem.writeBytes 0 (t.inMem.readBytes 4 size) = s.outMem.writeBytes 0 (s.inMem.readBytes 4 size)
  rw [h.outMem, h.inMem]

theorem enterMethod (S : Entry) (size : BitVec 29) :
    Corresponds RunsAlike (enterMethod S size s) (Machine.enterMethod S size t) := by
  rw [Machine.enterMethod, Machine.enterMethod, h.params, h.cmd]
  split
  · exact .refused _
  · split
    · exact RunsAlike.errorEntry h _ _
    · split
      · split
        · exact RunsAlike.errorEntry h _ _
        · exact .next (.goesOn (h.copyRaw _))
      · exact .next (.goesOn (h.startStream _ _))

theorem mword (size : BitVec 29) (m : BitVec 3) :
    Corresponds RunsAlike (exec (.mword size m) s) (exec (.mword size m) t) := by
  show Corresponds RunsAlike (mwordOver registry size m s) (mwordOver registry size m t)
  rw [mwordOver, mwordOver, h.params, h.cmd]
  split
  · exact RunsAlike.errorEntry h _ _
  · cases methodScheme s.params m with
    | none => exact RunsAlike.errorEntry h _ _
    | some id =>
      dsimp only
      cases checkEntry (registry id) with
      | error e =>
        cases e with
        | raise e off => exact RunsAlike.errorEntry h _ _
        | refuse r => exact .refused r
      | ok S => exact h.enterMethod S size

theorem hdr16 (tag : BitVec 32) (rsvd : BitVec 64) (size : BitVec 32) :
    Corresponds RunsAlike (exec (.hdr16 tag rsvd size) s) (exec (.hdr16 tag rsvd size) t) := by
  show Corresponds RunsAlike (execHdr16 tag rsvd size s) (execHdr16 tag rsvd size t)
  rw [execHdr16, execHdr16, h.params, h.cmd]
  split
  · exact RunsAlike.errorEntry h _ _
  · split
    · exact RunsAlike.errorEntry h _ _
    · split
      · exact RunsAlike.errorEntry h _ _
      · exact .next (.goesOn (h.startStream _ _))

theorem headerTurn (f : Bool) :
    Corresponds RunsAlike (internalTurn (fetchHeader f s) s) (internalTurn (fetchHeader f t) t) := by
  by_cases short : s.cmd.n.toNat < headerLength f
  · rw [fetchHeader_short short, fetchHeader_short (by rwa [h.cmd])]
    exact RunsAlike.errorEntry h _ _
  · have long := Nat.le_of_not_lt short
    cases f with
    | true =>
      rw [fetchHeader_word long, fetchHeader_word (s := t) (by rwa [h.cmd]), internalTurn, internalTurn,
        internalExec_eq_exec rfl, internalExec_eq_exec rfl, h.inMem]
      exact h.mword _ _
    | false =>
      rw [fetchHeader_header16 long, fetchHeader_header16 (s := t) (by rwa [h.cmd]), internalTurn, internalTurn,
        internalExec_eq_exec rfl, internalExec_eq_exec rfl, h.inMem]
      exact h.hdr16 _ _ _

theorem decompress (f p : Bool) : Corresponds SameEnd (exec (.decompress f p) s) (exec (.decompress f p) t) := by
  show Corresponds SameEnd (execDecompress f p s) (execDecompress f p t)
  rw [execDecompress, execDecompress, h.commonChecks]
  cases Machine.commonChecks registry .decompress f s with
  | error e => exact h.settle_error e
  | ok S =>
    refine ((h.setStage .header).headerTurn f).andThen fun u v next => ?_
    cases next with
    | goesOn same =>
      rw [streamBound, streamBound, same.size]
      exact RunsAlike.streamRun (.goesOn same) _
    | ended same past =>
      rw [streamRun_of_ended past.1, streamRun_of_ended past.2]
      exact .next same

end Alike

/-- Settles O40: states alike correspond under each of the six commands. -/
theorem commandsReadOnlyTheLatchedOperands : Obligations.CommandsReadOnlyTheLatchedOperands := by
  intro i s t u command params cmd inMem outMem draws run
  have alike : Alike s t := ⟨params, cmd, inMem, outMem, draws⟩
  have corresponds : Corresponds SameEnd (exec i s) (exec i t) := by
    cases i with
    | ctrlbyte | lit | matchTok | hdr16 | mword | tokrecLit | tokrecMatch | candrec => cases command
    | find f p => exact alike.find f p
    | price f p => exact alike.price f p
    | parse f p => exact alike.parse f p
    | encode f p => exact alike.encode f p
    | compress f p => exact alike.compress f p
    | decompress f p => exact alike.decompress f p
  rw [run] at corresponds
  generalize exec i t = o at corresponds
  cases corresponds with
  | next same => exact ⟨_, rfl, same.status, same.res, same.outMem⟩

end Sys2Proof.Machine
end

section
/-! PROOFS. The internal grain refines the completion step: a command opened and run one internal instruction at a time
ends as it does taken whole. -/

namespace Sys2Proof.Machine

/-! ## Runs of steps -/

/-- Some number of steps from `s` gives the outcome. -/
def Reaches (s : State) (o : Outcome) : Prop := ∃ k, Host.Core.run core k s = o

theorem run_one (M : Host.Core) (s : M.State) : M.run 1 s = M.step s := by
  rw [Host.Core.run]
  cases M.step s <;> rfl

theorem run_of_next (M : Host.Core) {s t : M.State} (h : M.step s = .next t) (k : Nat) :
    M.run (k + 1) s = M.run k t := by
  rw [Host.Core.run, h]

theorem Reaches.last {s : State} {o : Outcome} (h : step s = o) : Reaches s o := ⟨1, (run_one core s).trans h⟩

theorem Reaches.step {s t : State} {o : Outcome} (h : step s = .next t) (later : Reaches t o) : Reaches s o := by
  obtain ⟨k, run⟩ := later
  exact ⟨k + 1, (run_of_next core h k).trans run⟩

/-- The engine is BUSY and nothing else is due: each step is its turn. -/
structure Turning (s : State) : Prop where
  busy   : s.status.busy = true
  agenda : s.agenda = []

theorem Working.turning {s t : State} (h : Working s t) (turning : Turning s) : Turning t :=
  ⟨by rw [h.status]; exact turning.busy, h.keeps.agenda.trans turning.agenda⟩

theorem Turning.step {s : State} (h : Turning s) : step s = engineTurn s :=
  step_of_engineTurn (.nothingDue h.agenda) h.busy

/-- Inside an opened command each step is an internal turn. -/
theorem Turning.step_opened {s : State} (h : Turning s) (opened : s.stage ≠ .command) {f : Fetched}
    (fetched : fetch s = f) : Machine.step s = internalTurn f s := by
  rw [h.step, engineTurn_eq_internalTurn opened, fetched]

/-! ## FIND and PARSE: one record for each turn -/

theorem emitAll_concat (blocks : List (List Byte)) (b : List Byte) (s : State) :
    emitAll (blocks ++ [b]) s = (emitAll blocks s).emit b := by
  rw [emitAll, List.foldl_append]
  rfl

section
variable {s : State}

/-- WRPTR counts the blocks emitted from the start of OUT, all of one length. -/
theorem emitAll_wrptr {r : Nat} {blocks : List (List Byte)} (wrptr : s.enc.wrptr = 0#32)
    (length : ∀ b ∈ blocks, b.length = r) (small : r * blocks.length < 2 ^ 32) :
    (emitAll blocks s).enc.wrptr.toNat = r * blocks.length := by
  induction blocks using List.reverseRecOn with
  | nil => rw [emitAll, List.foldl_nil, wrptr]; rfl
  | append_singleton blocks b ih =>
    rw [List.length_append, List.length_singleton, Nat.mul_add, Nat.mul_one] at small ⊢
    have before := ih (fun b' mem => length b' (List.mem_append_left _ mem)) (by omega)
    have last := length b (List.mem_append_right _ (List.mem_singleton_self b))
    rw [emitAll_concat, State.emit_enc, last, toNat_add_u32 (by omega), before]

/-- Where each turn emits the record that WRPTR counts to, and the turn behind the last one ends the command, the turns
emit all records. -/
theorem reaches_records {α : Type} {xs : List α} {record : α → List Byte} {r : Nat} {finish : State → State}
    (wrptr : s.enc.wrptr = 0#32) (pos : 0 < r) (length : ∀ x, (record x).length = r) (small : r * xs.length < 2 ^ 32)
    (turns : ∀ blocks x, xs[(emitAll blocks s).enc.wrptr.toNat / r]? = some x →
      step (emitAll blocks s) = .next ((emitAll blocks s).emit (record x)))
    (ends : ∀ blocks, xs[(emitAll blocks s).enc.wrptr.toNat / r]? = none →
      step (emitAll blocks s) = .next (finish (emitAll blocks s))) :
    Reaches s (.next (finish (emitAll (xs.map record) s))) := by
  have next {done rest : List α} (split : done ++ rest = xs) :
      xs[(emitAll (done.map record) s).enc.wrptr.toNat / r]? = rest.head? := by
    have fits : r * done.length ≤ r * xs.length := Nat.mul_le_mul_left r (by simp [← split])
    rw [emitAll_wrptr (r := r) wrptr (by simp [length]) (by simpa using Nat.lt_of_le_of_lt fits small),
      List.length_map, Nat.mul_div_cancel_left _ pos, ← split, List.getElem?_append_right (Nat.le_refl _),
      Nat.sub_self, List.head?_eq_getElem?]
  have behind (done rest : List α) (split : done ++ rest = xs) :
      Reaches (emitAll (done.map record) s) (.next (finish (emitAll (xs.map record) s))) := by
    induction rest generalizing done with
    | nil =>
      obtain rfl : done = xs := by rw [← split, List.append_nil]
      exact .last (ends _ (next split))
    | cons x rest ih =>
      have later := ih (done ++ [x]) (by rw [List.append_assoc, List.singleton_append, split])
      rw [List.map_append, List.map_singleton, emitAll_concat] at later
      exact .step (turns _ x (next split)) later
  exact behind [] xs rfl

theorem reaches_find (turning : Turning s) (stage : s.stage = .putCands) (wrptr : s.enc.wrptr = 0#32)
    (small : 4 * s.cands.length < 2 ^ 32) : Reaches s (.next (finishFind (putCands s.cands s))) := by
  have turn (blocks : List (List Byte)) :
      (emitAll blocks s).cands = s.cands ∧
        step (emitAll blocks s) = internalTurn (fetchCand (emitAll blocks s)) (emitAll blocks s) := by
    have frame := emitAll_frame blocks s
    have stage' : (emitAll blocks s).stage = .putCands := by rw [frame]; exact stage
    have opened : (emitAll blocks s).stage ≠ .command := by rw [stage']; decide
    exact ⟨by rw [frame]; rfl,
      ((emitAll_working blocks s).turning turning).step_opened opened (fetch_putCands stage')⟩
  rw [putCands_eq_emitAll]
  refine reaches_records wrptr (by decide) (fun _ => rfl) small (fun blocks c next => ?_) (fun blocks past => ?_)
  · obtain ⟨cands, step⟩ := turn blocks
    exact step.trans (candTurn_eq (by rw [cands]; exact next))
  · obtain ⟨cands, step⟩ := turn blocks
    exact step.trans (candTurn_of_end (by rw [cands]; exact past))

theorem reaches_parse (turning : Turning s) (stage : s.stage = .putTokens) (wrptr : s.enc.wrptr = 0#32)
    (small : 8 * s.seq.length < 2 ^ 32) : Reaches s (.next (finishParse registry (putTokens s.seq s))) := by
  have turn (blocks : List (List Byte)) :
      (emitAll blocks s).stage = .putTokens ∧ (emitAll blocks s).seq = s.seq ∧
        step (emitAll blocks s) = internalTurn (fetchToken (emitAll blocks s)) (emitAll blocks s) := by
    have frame := emitAll_frame blocks s
    have stage' : (emitAll blocks s).stage = .putTokens := by rw [frame]; exact stage
    have opened : (emitAll blocks s).stage ≠ .command := by rw [stage']; decide
    exact ⟨stage', by rw [frame]; rfl,
      ((emitAll_working blocks s).turning turning).step_opened opened (fetch_putTokens stage')⟩
  rw [putTokens_eq_emitAll]
  refine reaches_records wrptr (by decide) (fun t => ?_) small (fun blocks t next => ?_) (fun blocks past => ?_)
  · cases t <;> rfl
  · obtain ⟨stage', seq, step⟩ := turn blocks
    exact step.trans (tokenTurn_eq stage' (by rw [seq]; exact next))
  · obtain ⟨_, seq, step⟩ := turn blocks
    exact step.trans (tokenTurn_of_end (by rw [seq]; exact past))

/-! ## ENCODE: one record for each turn -/

/-- A run that settles from a working state in which OUT is as it was settles as from the command's start. -/
theorem Working.settle_eq {t : State} (h : Working s t) (out : t.outMem = s.outMem) (r : Except Stop State) :
    settle t r = settle s r := by
  cases r with
  | ok u => rfl
  | error e => exact h.settle_error_eq out e

theorem readingRecords_working (s : State) (T : List Token) : Working s (s.readingRecords T) :=
  working_of_fields s _ _ _ _ _ _ _

theorem reaches_encode {T : List Token} {k : Nat} (turning : Turning s) (length : s.cmd.n.toNat = 8 * (T.length + k)) :
    Reaches (s.readingRecords T) (settle s
      ((readRecords registry k (s.readingRecords T)).bind (finishEncode s.cmd.framing s.cmd.preserve))) := by
  induction k generalizing T with
  | zero =>
    have turn := ((readingRecords_working s T).turning turning).step_opened nofun (fetch_readRecords rfl)
    have past : (s.readingRecords T).cmd.n.toNat ≤ 8 * (s.readingRecords T).seq.length := length.le
    refine .last (turn.trans ((recordTurn_of_end past).trans ?_))
    exact (readingRecords_working s T).settle_eq rfl _
  | succ k ih =>
    have turn := ((readingRecords_working s T).turning turning).step_opened nofun (fetch_readRecords rfl)
    have left : 8 * (s.readingRecords T).seq.length < (s.readingRecords T).cmd.n.toNat := by
      show 8 * T.length < s.cmd.n.toNat
      omega
    rw [recordTurn_eq rfl left, (readingRecords_working s T).settle_eq rfl] at turn
    rw [readRecords]
    cases read : readRecord registry (s.readingRecords T) with
    | error e =>
      rw [read] at turn
      exact .last turn
    | ok u =>
      rw [read] at turn
      obtain ⟨t, rfl⟩ := readRecord_ok read
      exact .step turn (ih (T := T ++ [t]) (by rw [List.length_append, List.length_singleton]; omega))

/-! ## DECOMPRESS: the header, then one stream instruction for each turn -/

theorem reaches_stream {k : Nat} (turning : Turning s) (stage : s.stage = .stream) (enough : s.dec.turnsLeft ≤ k) :
    Reaches s (streamRun k s) := by
  induction k generalizing s with
  | zero => exact absurd enough (Nat.not_le_of_lt DecRegs.turnsLeft_pos)
  | succ k ih =>
    have turn := turning.step_opened (by rw [stage]; decide) (fetch_stream stage)
    rw [streamRun, if_pos stage]
    cases turned : internalTurn (fetchStream s) s with
    | next t =>
      rw [turned] at turn
      by_cases opened : t.stage = .stream
      · obtain ⟨inStream, less⟩ := (turned ▸ streamTurn s).goes_on stage opened
        exact .step turn (ih (inStream.working.turning turning) opened (by omega))
      · rw [andThen, streamRun_of_ended opened]
        exact .last turn
    | fault r =>
      rw [turned] at turn
      exact .last turn
    | refused r =>
      rw [turned] at turn
      exact .last turn

theorem reaches_header (turning : Turning s) (stage : s.stage = .header) :
    Reaches s (andThen (internalTurn (fetchHeader s.cmd.framing s) s) fun t => streamRun (streamBound t) t) := by
  have turn := turning.step_opened (by rw [stage]; decide) (fetch_header stage)
  have kind := headerTurn s.cmd.framing s
  generalize internalTurn (fetchHeader s.cmd.framing s) s = o at turn kind
  have streams {t : State} (working : Working s t) (opened : t.stage = .stream) :
      Reaches t (streamRun (streamBound t) t) :=
    reaches_stream (working.turning turning) opened
      (DecRegs.turnsLeft_le.trans (Nat.succ_le_succ (Nat.mul_le_mul_left 2 (Nat.sub_le _ _))))
  cases kind with
  | raised e off =>
    rw [andThen, streamRun_of_ended (by rw [State.errorEntry_stage]; decide)]
    exact .last turn
  | refused r => exact .last turn
  | starts start size same fits behind => exact .step turn (streams (working_of_fields s _ _ _ _ _ _ _) rfl)
  | copies fits present => exact .step turn (streams (working_of_fields s _ _ _ _ _ _ _) rfl)

/-! ## Every command -/

/-- A command opened in `s` reaches what its execution as a whole gives. -/
theorem reaches_opened {u : State} {i : Instr} (turning : Turning s) (wf : s.params.wf = true)
    (latched : decodeCommand (ctrlWord true s.cmd.op s.cmd.framing s.cmd.preserve) = .ok i)
    (opening : step u = openCommand i s) : Reaches u (exec i s) := by
  have room := Params.outCap_lt wf
  obtain ⟨_, rfl⟩ | ⟨_, rfl⟩ | ⟨_, rfl⟩ | ⟨_, rfl⟩ | ⟨_, rfl⟩ | ⟨_, rfl⟩ := latched_cases latched
  · rw [openCommand] at opening
    rw [exec_find_eq]
    cases opened : openFind registry s.cmd.framing s with
    | error e =>
      rw [opened] at opening
      exact .last opening
    | ok t =>
      rw [opened] at opening
      obtain ⟨C, fits, rfl⟩ := openFind_ok opened
      refine .step opening (reaches_find ?_ rfl rfl (Nat.lt_of_le_of_lt fits room))
      exact (working_of_fields s _ _ _ _ _ _ _).turning turning
  · exact .last opening
  · rw [openCommand] at opening
    rw [exec_parse_eq]
    cases opened : openParse registry s.cmd.framing s with
    | error e =>
      rw [opened] at opening
      exact .last opening
    | ok t =>
      rw [opened] at opening
      obtain ⟨dp, T, fits, rfl⟩ := openParse_ok opened
      refine .step opening (reaches_parse ?_ rfl rfl (Nat.lt_of_le_of_lt fits room))
      exact (working_of_fields s _ _ _ _ _ _ _).turning turning
  · rw [openCommand] at opening
    rw [exec_encode_eq]
    cases opened : openEncode registry s.cmd.framing s with
    | error e =>
      rw [opened] at opening
      rw [encodeResult, opened]
      exact .last opening
    | ok t =>
      rw [opened] at opening
      rw [encodeResult_opened opened]
      obtain ⟨_, whole, rfl⟩ := openEncode_ok opened
      refine .step opening (reaches_encode (T := []) turning ?_)
      rw [List.length_nil, Nat.zero_add, Nat.mul_div_cancel' (Nat.dvd_of_mod_eq_zero whole)]
  · exact .last opening
  · rw [openCommand] at opening
    show Reaches u (execDecompress s.cmd.framing s.cmd.preserve s)
    rw [execDecompress]
    cases checked : commonChecks registry .decompress s.cmd.framing s with
    | error e =>
      rw [checked] at opening
      exact .last opening
    | ok S =>
      rw [checked] at opening
      refine .step opening (reaches_header (s := s.setStage .header) ?_ rfl)
      exact (working_of_fields s _ _ _ _ _ _ _).turning turning

end

/-- Settles O54: the opening is the first step, and each command's turns reach the end of its run. -/
theorem internalStepsAgreeWithCompletion : Obligations.InternalStepsAgreeWithCompletion := by
  intro s wf busy stage due
  have turning : Turning (s.setAgenda []) := ⟨busy, rfl⟩
  have opening := step_internal due busy stage
  rw [turning.step, engineTurn, fetch_command (s := s.setAgenda []) stage]
  obtain ⟨i, latched, found⟩ | found := fetchCommand_cases (s.setAgenda [])
  · rw [openTurn_of_fetch found] at opening
    rw [found]
    exact reaches_opened turning wf latched opening
  · rw [openTurn, found] at opening
    rw [found]
    exact Reaches.last opening

end Sys2Proof.Machine
end
